-- ==== Sys2Proof/Word.lean ====
section
/-! DEFINITION. The words the spec names, each with its one width (`00_scope.md` R10, R12; `30_encoding.md` R70, R75). -/

namespace Sys2Proof

/-- A byte: 8 bits (`20_memory.md` R50). -/
abbrev Byte := BitVec 8

/-- A device's 64-bit identifier: family code, serial, CRC (`10_state.md` R36, `30_encoding.md` R82). -/
abbrev Address := BitVec 64

/-- Nine scratchpad bytes, byte `k` in bits `8k+7 : 8k` (`30_encoding.md` R75, R83). -/
abbrev Scratchpad := BitVec 72

/-- A request or response word (`30_encoding.md` R70, R75). -/
abbrev RequestWord := BitVec 128

/-- A piece of the wire's byte stream: a command byte and up to eight bytes after it, the first byte
in bits 7:0 (`30_encoding.md` R80, R81, R86; log 4). -/
abbrev WireWord := BitVec 72

end Sys2Proof
end

