-- ==== Sys2Proof/Config.lean ====
section
/-! DEFINITION. What the spec fixes once and what it leaves free: timing figures, protocol constants, open
parameters (`00_scope.md` R9 to R11), and the free values, constants without a body of which nothing can be
proved. The command bytes, the family code and the CRC start value are the spec's general knowledge (UNVERIFIED:
log 23). -/

namespace Sys2Proof

/-- A line level; as bits, `high` is 1 and `low` is 0 (`00_scope.md` R12). -/
inductive Level where
  | low
  | high
deriving DecidableEq, Repr, Inhabited

/-- A value of the pin fault type `PinErr`, by its number; which type that is, is the parameter `Params.pinErr`
(`00_scope.md` R11). DESIGN CHOICE, safe: log 10. -/
abbrev PinErr := Nat

/-- The parameter `PinErr` of `00_scope.md` R11, a type with at least one value: its default, an 8-bit code, or any
type, as the 8-bit codes that `aux` carries for its values (`92_eei_decisions.md` D10, U18). DESIGN CHOICE, safe:
log 10. -/
inductive PinErrType where
  | eightBit
  | values (first : Byte) (others : List Byte)
deriving DecidableEq, Repr

/-- The 8-bit code of a value (`92_eei_decisions.md` D10); a number beyond the last value names the first. -/
def PinErrType.code : PinErrType → PinErr → Byte
  | .eightBit, e => BitVec.ofNat 8 e
  | .values first others, e => (first :: others).getD e first

/-- What the environment answers to one pin primitive: success, with the line level if it is a sample, or a
pin fault (`00_scope.md` R14, `20_memory.md` R67). -/
inductive Answer where
  | level (l : Level)
  | fault (e : PinErr)
deriving DecidableEq, Repr, Inhabited

/-- The twelve timing parameters, in microseconds but for the count `nPoll` (`00_scope.md` R9). -/
structure Timing where
  tPoll : Nat
  nPoll : Nat
  tRstl : Nat
  tPds  : Nat
  tRstr : Nat
  tW1l  : Nat
  tW1r  : Nat
  tW0l  : Nat
  tW0r  : Nat
  tRdl  : Nat
  tRds  : Nat
  tRdr  : Nat
deriving DecidableEq, Repr

/-- The document's figures (`00_scope.md` R9). -/
def Timing.documented : Timing where
  tPoll := 2
  nPoll := 125
  tRstl := 480
  tPds  := 70
  tRstr := 410
  tW1l  := 10
  tW1r  := 55
  tW0l  := 65
  tW0r  := 5
  tRdl  := 1
  tRds  := 1
  tRdr  := 53

/-- The parameters of `00_scope.md` R9 and R11. They are constant for the life of the machine (`10_state.md`
R32 (c)) and stand in `State` so that a statement about every state is one about every choice of them.
DESIGN CHOICE, safe: log 11. -/
structure Params where
  timing         : Timing
  searchCrcCheck : Bool
  tempFracBits   : Nat
  tempBits       : Nat
  slotTolUs      : Nat
  pinErr         : PinErrType
deriving DecidableEq, Repr

/-- The ranges R11 gives the two widths: F ≥ 4 and W ≥ 12 + F. That `PinErr` has a value is so by its
construction. -/
abbrev Params.Legal (p : Params) : Prop := 4 ≤ p.tempFracBits ∧ 12 + p.tempFracBits ≤ p.tempBits

namespace Config

/-- `CMD_MATCH_ROM` (`30_encoding.md` R80). -/
def cmdMatchRom : Byte := 0x55
/-- `CMD_SKIP_ROM` (`30_encoding.md` R80). -/
def cmdSkipRom : Byte := 0xCC
/-- `CMD_SEARCH_ROM` (`30_encoding.md` R80). -/
def cmdSearchRom : Byte := 0xF0
/-- `CMD_CONVERT_T` (`30_encoding.md` R81). -/
def cmdConvertT : Byte := 0x44
/-- `CMD_READ_SCRATCHPAD` (`30_encoding.md` R81). -/
def cmdReadScratchpad : Byte := 0xBE
/-- `CMD_WRITE_SCRATCHPAD` (`30_encoding.md` R81). -/
def cmdWriteScratchpad : Byte := 0x4E
/-- `CMD_COPY_SCRATCHPAD` (`30_encoding.md` R81). -/
def cmdCopyScratchpad : Byte := 0x48
/-- `CMD_RECALL_E2` (`30_encoding.md` R81). -/
def cmdRecallE2 : Byte := 0xB8
/-- `FAMILY_CODE` (`00_scope.md` R10). -/
def familyCode : Byte := 0x28
/-- The CRC polynomial in reflected form (`00_scope.md` R10). -/
def crcPoly : Byte := 0x8C
/-- The CRC initial value (`00_scope.md` R10). -/
def crcInit : Byte := 0x00
/-- How long a low line is a reset pulse to the devices, in microseconds (`70_reset_and_hazards.md` R224). -/
def resetPulseUs : Nat := 480

/-- `SLOT_TOL_US`, which the spec leaves open with no default (`00_scope.md` R11): a free value. Log 12. -/
opaque slotTolUs : Nat

/-- The unconstrained environment's answer to the `n`-th pin primitive (`20_memory.md` R67,
`93_implementation_defined.md` U2, U3): a free value. Log 6. -/
opaque freeAnswer : Nat → Answer

/-- `rom_no` after the `n`-th failed search (`41_rom_search.md` R128, U1): a free value. Log 13. -/
opaque freeRomNo : Nat → BitVec 64

/-- `last_discrepancy` after the `n`-th failed search, within the register's values 0 to 64 (`10_state.md`
R20, U1): a free value. Log 13. -/
opaque freeDiscrepancy : Nat → Fin 65

/-- `last_family_discrepancy` after the `n`-th failed search, within the register's values 0 to 8
(`10_state.md` R20, U1): a free value. Log 13. -/
opaque freeFamilyDiscrepancy : Nat → Fin 9

/-- `last_device_flag` after the `n`-th failed search (U1): a free value. Log 13. -/
opaque freeDeviceFlag : Nat → Bool

/-- Whether a conversion of the device with this address ends at the `n`-th occasion, "a time the environment
chooses" (`20_memory.md` R66): a free value. Log 9. -/
opaque conversionEnds : Nat → Address → Bool

/-- The raw temperature that a conversion of the device with this address yields when it ends at the `n`-th occasion
and the state fixes none (`20_memory.md` R66, "the new raw temperature"): a free value. Log 27. -/
opaque freeTemperature : Nat → Address → BitVec 16

/-- `SLOT_TOL_US` aside, the defaults of `00_scope.md` R11, and the document's timing. -/
def params : Params where
  timing         := Timing.documented
  searchCrcCheck := true
  tempFracBits   := 4
  tempBits       := 16
  slotTolUs      := slotTolUs
  pinErr         := .eightBit

end Config

end Sys2Proof
end

