-- ==== Sys2Proof/Machine/Crc.lean ====
section
/-! DEFINITION. The CRC-8 function and its validation rule (`42_crc8.md` R140 to R142). -/

namespace Sys2Proof.Machine

/-- One shift of the accumulator: toward bit 0, with the polynomial fed back when a 1 leaves (R140). -/
def crcShift (crc : Byte) : Byte := if crc.getLsbD 0 then (crc >>> 1) ^^^ Config.crcPoly else crc >>> 1

/-- `n` shifts. -/
def crcShifts : Nat → Byte → Byte
  | 0, crc => crc
  | n + 1, crc => crcShifts n (crcShift crc)

/-- One byte into the accumulator: exclusive or, then eight shifts (R140). -/
def crcByte (crc b : Byte) : Byte := crcShifts 8 (crc ^^^ b)

/-- `crc8(b)` (R140). -/
def crc8 (bytes : List Byte) : Byte := bytes.foldl crcByte Config.crcInit

/-- The bit-serial form: one received bit into the accumulator (R141). -/
def crcBit (crc : Byte) (d : Bool) : Byte :=
  if crc.getLsbD 0 ^^ d then (crc >>> 1) ^^^ Config.crcPoly else crc >>> 1

/-- The bit-serial checksum of bits in transmission order (R141). -/
def crc8Bits (bits : List Bool) : Byte := bits.foldl crcBit Config.crcInit

/-- The table form's entry `T[i]` (R141). -/
def crcTable (i : Byte) : Byte := crc8 [i]

/-- `check_crc` passes: the checksum of all bytes but the last is the last (R142). The engine applies it to 8
and 9 bytes only; on no bytes it passes, which no operation asks. -/
def crcOk (bytes : List Byte) : Bool := crc8 bytes.dropLast == bytes.getLastD 0

end Sys2Proof.Machine
end

