-- ==== Sys2Proof/Syntax.lean ====
section
/-! DEFINITION. The operations: one constructor of `Instr` per row of `spec/opcode_table.json`, and the words
that encode them. -/

namespace Sys2Proof

/-- The four resolutions (`10_state.md` R35). -/
inductive Resolution where
  | bits9
  | bits10
  | bits11
  | bits12
deriving DecidableEq, Repr

/-- One constructor per row of the opcode table: 18 request forms (`30_encoding.md` R71, R72), then the 8
wire command bytes (`30_encoding.md` R80, R81), each with the operands the row's form carries. A wire command's
operands are the bytes R80 or R81 says are written after it (log 3). -/
inductive Instr where
  | reset
  | writeBit (b : Bool)
  | readBit
  | writeByte (v : Byte)
  | readByte
  | sendCommandSkip (c : Byte)
  | sendCommandMatch (a : Address) (c : Byte)
  | search
  | searchReset
  | crcCheckAddr (a : Address)
  | readScratchpad (a : Address)
  | writeScratchpad (a : Address) (th tl cfg : Byte)
  | getResolution (a : Address)
  | setResolution (a : Address) (r : Resolution)
  | startMeasurementSkip
  | startMeasurementMatch (a : Address)
  | readTemp (a : Address) (r : Resolution)
  | measure (a : Address) (r : Resolution)
  | cmdMatchRom (a : Address)
  | cmdSkipRom
  | cmdSearchRom
  | cmdConvertT
  | cmdReadScratchpad
  | cmdWriteScratchpad (th tl cfg : Byte)
  | cmdCopyScratchpad
  | cmdRecallE2
deriving DecidableEq, Repr

/-- A word that stands for an operation: a request word on the request port (`30_encoding.md` R70), or a piece
of the wire's byte stream (`30_encoding.md` R86; DESIGN CHOICE: log 3, log 4). -/
inductive Code where
  | request (w : RequestWord)
  | wire (w : WireWord)
deriving DecidableEq, Repr

end Sys2Proof
end

