-- ==== Sys2Proof/WellFormed.lean ====
section
/-! DEFINITION. Which words are well formed: the opcode table as data, a mask and a pattern per row
(`spec/opcode_table.json`; `30_encoding.md` R71, R73, R76, R80, R81). Every term of `Instr` is well formed
("ill-formed requests cannot be written", `60_exceptions.md` R186), so the checks are on words. The decoder does
not use this table: it follows the procedure of `30_encoding.md` R73, and that the two agree is a statement. -/

namespace Sys2Proof

/-- A request row: a word is of the row when it agrees with `pattern` on the bits of `mask`. -/
structure RequestRow where
  mnemonic : String
  form     : String
  mask     : RequestWord
  pattern  : RequestWord
deriving DecidableEq, Repr

/-- The row's test. -/
def RequestRow.admits (r : RequestRow) (w : RequestWord) : Bool := w &&& r.mask == r.pattern

/-- The 18 request rows, in the table's order. -/
def requestRows : List RequestRow :=
  [ ⟨"RESET", "N", 0xFFFFFFFFFFFFFFFFFFFFFFFFFFFFFFFF, 0x01⟩,
    ⟨"WRITE_BIT", "B", 0xFFFFFFFFFFFFFFFFFFFFFFFFFFFEFFFF, 0x02⟩,
    ⟨"READ_BIT", "N", 0xFFFFFFFFFFFFFFFFFFFFFFFFFFFFFFFF, 0x03⟩,
    ⟨"WRITE_BYTE", "Y", 0xFFFFFFFFFFFFFFFFFFFFFFFFFF00FFFF, 0x04⟩,
    ⟨"READ_BYTE", "N", 0xFFFFFFFFFFFFFFFFFFFFFFFFFFFFFFFF, 0x05⟩,
    ⟨"SEND_COMMAND", "CS", 0xFFFFFFFFFFFFFFFFFFFFFFFFFF00FFFF, 0x10⟩,
    ⟨"SEND_COMMAND", "CM", 0x0000000000000000FFFFFFFFFF00FFFF, 0x110⟩,
    ⟨"SEARCH", "N", 0xFFFFFFFFFFFFFFFFFFFFFFFFFFFFFFFF, 0x11⟩,
    ⟨"SEARCH_RESET", "N", 0xFFFFFFFFFFFFFFFFFFFFFFFFFFFFFFFF, 0x12⟩,
    ⟨"CRC_CHECK_ADDR", "A", 0x0000000000000000FFFFFFFFFFFFFFFF, 0x20⟩,
    ⟨"READ_SCRATCHPAD", "K", 0x0000000000000000FFFFFFFFFFFFFFFF, 0x131⟩,
    ⟨"WRITE_SCRATCHPAD", "KW", 0x0000000000000000FFFFFF000000FFFF, 0x132⟩,
    ⟨"GET_RESOLUTION", "K", 0x0000000000000000FFFFFFFFFFFFFFFF, 0x133⟩,
    ⟨"SET_RESOLUTION", "KR", 0x0000000000000000FFFFFFFFFFFCFFFF, 0x134⟩,
    ⟨"START_MEASUREMENT", "TS", 0xFFFFFFFFFFFFFFFFFFFFFFFFFFFFFFFF, 0x35⟩,
    ⟨"START_MEASUREMENT", "TM", 0x0000000000000000FFFFFFFFFFFFFFFF, 0x135⟩,
    ⟨"READ_TEMP", "KR", 0x0000000000000000FFFFFFFFFFFCFFFF, 0x136⟩,
    ⟨"MEASURE", "KR", 0x0000000000000000FFFFFFFFFFFCFFFF, 0x137⟩ ]

/-- A wire row: its command byte and how many bytes are written after it (`30_encoding.md` R80, R81). -/
structure WireRow where
  mnemonic : String
  command  : Byte
  operands : Nat
deriving DecidableEq, Repr

/-- The row's test: the command byte, and no bit beyond the bytes written after it. -/
def WireRow.admits (r : WireRow) (w : WireWord) : Bool :=
  w.setWidth 8 == r.command && w >>> (8 * (r.operands + 1)) == 0

/-- The 8 wire command rows, in the table's order. -/
def wireRows : List WireRow :=
  [ ⟨"CMD_MATCH_ROM", 0x55, 8⟩,
    ⟨"CMD_SKIP_ROM", 0xCC, 0⟩,
    ⟨"CMD_SEARCH_ROM", 0xF0, 0⟩,
    ⟨"CMD_CONVERT_T", 0x44, 0⟩,
    ⟨"CMD_READ_SCRATCHPAD", 0xBE, 0⟩,
    ⟨"CMD_WRITE_SCRATCHPAD", 0x4E, 3⟩,
    ⟨"CMD_COPY_SCRATCHPAD", 0x48, 0⟩,
    ⟨"CMD_RECALL_E2", 0xB8, 0⟩ ]

/-- A word is well formed when some row of the opcode table admits it. -/
def Code.wellFormed : Code → Bool
  | .request w => requestRows.any fun r => r.admits w
  | .wire w => wireRows.any fun r => r.admits w

end Sys2Proof
end

