-- ==== Sys2Proof/Decode.lean ====
section
/-! DEFINITION. The decoder, total and rejecting by name (`30_encoding.md` R73, R76, R80, R81), and after it the
encoder, written from the same fields and forms (`30_encoding.md` R70 to R72). -/

namespace Sys2Proof

/-- Why a word decodes to no operation. A request so rejected is answered `ILLEGAL` (`60_exceptions.md` R186). -/
inductive DecodeError where
  /-- The operation code is reserved (`30_encoding.md` R76). -/
  | reservedOp (op : Byte)
  /-- The code is known, and a reserved bit or a field its forms do not use is set, or `tgt` has no form's
  value (`30_encoding.md` R73 (2), R76). -/
  | noForm (op : Byte)
  /-- The first byte of a wire piece is none of the 8 commands of `30_encoding.md` R80, R81. Log 20. -/
  | unknownWireCommand (command : Byte)
  /-- A wire piece has bits beyond the bytes its command is followed by. Log 4, log 20. -/
  | trailingWireBits (command : Byte)
deriving DecidableEq, Repr

/-! ## Fields of a request word -/

/-- The fields of `30_encoding.md` R70, lowest first. -/
structure Fields where
  op        : Byte
  tgt       : BitVec 1
  reserved1 : BitVec 7
  d0        : Byte
  d1        : Byte
  d2        : Byte
  reserved2 : BitVec 24
  addr      : Address
deriving DecidableEq, Repr

/-- The fields of a word, each at the bits R70 gives it. -/
def Fields.ofWord (w : RequestWord) : Fields where
  op        := w.extractLsb' 0 8
  tgt       := w.extractLsb' 8 1
  reserved1 := w.extractLsb' 9 7
  d0        := w.extractLsb' 16 8
  d1        := w.extractLsb' 24 8
  d2        := w.extractLsb' 32 8
  reserved2 := w.extractLsb' 40 24
  addr      := w.extractLsb' 64 64

/-- The word with these fields, `addr` in the most significant place. -/
def Fields.toWord (x : Fields) : RequestWord :=
  x.addr ++ (x.reserved2 ++ (x.d2 ++ (x.d1 ++ (x.d0 ++ (x.reserved1 ++ (x.tgt ++ x.op))))))

/-! ## Operand forms -/

/-- The operand forms of `30_encoding.md` R71. -/
inductive Form where
  | n | b | y | cs | cm | a | k | kw | kr | ts | tm
deriving DecidableEq, Repr

/-- The value of `tgt` that a form has (R71; the forms that do not list it have 0). -/
def Form.tgt : Form → BitVec 1
  | .n | .b | .y | .cs | .a | .ts => 0
  | .cm | .k | .kw | .kr | .tm => 1

/-- The bits of `d0` that a form uses (R71). -/
def Form.d0Bits : Form → Byte
  | .b => 0x01
  | .y | .cs | .cm | .kw => 0xFF
  | .kr => 0x03
  | .n | .a | .k | .ts | .tm => 0x00

/-- Whether a form uses `d1` and `d2` (R71). -/
def Form.usesD12 : Form → Bool
  | .kw => true
  | .n | .b | .y | .cs | .cm | .a | .k | .kr | .ts | .tm => false

/-- Whether a form uses `addr` (R71). -/
def Form.usesAddr : Form → Bool
  | .cm | .a | .k | .kw | .kr | .tm => true
  | .n | .b | .y | .cs | .ts => false

/-- The test of `30_encoding.md` R73 (2): `tgt` has the form's value and every bit outside the form's fields
is 0. -/
def Form.admits (f : Form) (x : Fields) : Bool :=
  x.tgt == f.tgt && x.reserved1 == 0 && x.reserved2 == 0 && x.d0 &&& ~~~f.d0Bits == 0 &&
    (f.usesD12 || (x.d1 == 0 && x.d2 == 0)) && (f.usesAddr || x.addr == 0)

/-- The resolution a two-bit code names, `9 + r` (`30_encoding.md` R74). -/
def Resolution.ofCode (r : BitVec 2) : Resolution :=
  if r = 0 then .bits9 else if r = 1 then .bits10 else if r = 2 then .bits11 else .bits12

/-- The two-bit code of a resolution (`30_encoding.md` R74). -/
def Resolution.code : Resolution → BitVec 2
  | .bits9 => 0
  | .bits10 => 1
  | .bits11 => 2
  | .bits12 => 3

/-- The operand `r = d0[1:0]` (R73 (3)). -/
def Fields.resolution (x : Fields) : Resolution := Resolution.ofCode (x.d0.setWidth 2)

/-! ## The decoder -/

/-- An operation of one form: `i` if the form admits the fields, else illegal. -/
def Fields.whenForm (x : Fields) (f : Form) (i : Instr) : Except DecodeError Instr :=
  if f.admits x then .ok i else .error (.noForm x.op)

/-- An operation of two forms, tried in order (R73 (2)). -/
def Fields.whenForms (x : Fields) (f : Form) (i : Instr) (g : Form) (j : Instr) : Except DecodeError Instr :=
  if f.admits x then .ok i else x.whenForm g j

/-- The operation the fields of a request name (`30_encoding.md` R72, R73). -/
def Fields.decode (x : Fields) : Except DecodeError Instr :=
  if x.op = 0x01 then x.whenForm .n .reset
  else if x.op = 0x02 then x.whenForm .b (.writeBit (x.d0.getLsbD 0))
  else if x.op = 0x03 then x.whenForm .n .readBit
  else if x.op = 0x04 then x.whenForm .y (.writeByte x.d0)
  else if x.op = 0x05 then x.whenForm .n .readByte
  else if x.op = 0x10 then
    x.whenForms .cs (.sendCommandSkip x.d0) .cm (.sendCommandMatch x.addr x.d0)
  else if x.op = 0x11 then x.whenForm .n .search
  else if x.op = 0x12 then x.whenForm .n .searchReset
  else if x.op = 0x20 then x.whenForm .a (.crcCheckAddr x.addr)
  else if x.op = 0x31 then x.whenForm .k (.readScratchpad x.addr)
  else if x.op = 0x32 then x.whenForm .kw (.writeScratchpad x.addr x.d0 x.d1 x.d2)
  else if x.op = 0x33 then x.whenForm .k (.getResolution x.addr)
  else if x.op = 0x34 then x.whenForm .kr (.setResolution x.addr x.resolution)
  else if x.op = 0x35 then x.whenForms .ts .startMeasurementSkip .tm (.startMeasurementMatch x.addr)
  else if x.op = 0x36 then x.whenForm .kr (.readTemp x.addr x.resolution)
  else if x.op = 0x37 then x.whenForm .kr (.measure x.addr x.resolution)
  else .error (.reservedOp x.op)

/-- Decoding a request word (`30_encoding.md` R73). -/
def decodeRequest (w : RequestWord) : Except DecodeError Instr := (Fields.ofWord w).decode

/-- A wire piece whose command is followed by `n` bytes: `i` if no bit is set beyond them. -/
def wireFollowedBy (w : WireWord) (n : Nat) (i : Instr) : Except DecodeError Instr :=
  if w >>> (8 * (n + 1)) = 0 then .ok i else .error (.trailingWireBits (w.setWidth 8))

/-- Byte `k` of a wire piece, byte 0 the command. -/
def wireByte (w : WireWord) (k : Nat) : Byte := w.extractLsb' (8 * k) 8

/-- Decoding a wire piece: its command byte, then the bytes `30_encoding.md` R80 or R81 says are written after
it (match: the address, byte 0 first; write-scratchpad: TH, TL, config). -/
def decodeWire (w : WireWord) : Except DecodeError Instr :=
  let c := wireByte w 0
  if c = Config.cmdMatchRom then wireFollowedBy w 8 (.cmdMatchRom (w.extractLsb' 8 64))
  else if c = Config.cmdSkipRom then wireFollowedBy w 0 .cmdSkipRom
  else if c = Config.cmdSearchRom then wireFollowedBy w 0 .cmdSearchRom
  else if c = Config.cmdConvertT then wireFollowedBy w 0 .cmdConvertT
  else if c = Config.cmdReadScratchpad then wireFollowedBy w 0 .cmdReadScratchpad
  else if c = Config.cmdWriteScratchpad then
    wireFollowedBy w 3 (.cmdWriteScratchpad (wireByte w 1) (wireByte w 2) (wireByte w 3))
  else if c = Config.cmdCopyScratchpad then wireFollowedBy w 0 .cmdCopyScratchpad
  else if c = Config.cmdRecallE2 then wireFollowedBy w 0 .cmdRecallE2
  else .error (.unknownWireCommand c)

/-- The decoder. -/
def decode : Code → Except DecodeError Instr
  | .request w => decodeRequest w
  | .wire w => decodeWire w

/-- The code that an opcode-table row's bits stand for: the 8-bit rows are wire pieces, followed by zero
bytes, the 128-bit rows are request words. -/
def codeOfTableWord (nbits w : Nat) : Code :=
  if nbits ≤ 72 then .wire (BitVec.ofNat 72 (w % 2 ^ nbits)) else .request (BitVec.ofNat 128 (w % 2 ^ nbits))

/-- The instruction the decoder reads from an instruction of `nbits` bits `w`. -/
def decodeTableWord (nbits w : Nat) : Option Instr := (decode (codeOfTableWord nbits w)).toOption

/-! ## The encoder -/

/-- A one-bit operand in `d0[0]`. -/
def bitByte (b : Bool) : Byte := if b then 1 else 0

/-- The word with operation code `op`, form `f` and these operands; reserved bits 0 (`30_encoding.md` R70). -/
def requestWord (op : Byte) (f : Form) (d0 d1 d2 : Byte) (a : Address) : RequestWord :=
  Fields.toWord { op := op, tgt := f.tgt, reserved1 := 0, d0 := d0, d1 := d1, d2 := d2, reserved2 := 0, addr := a }

/-- The word of each operation (`30_encoding.md` R71, R72, R80, R81). -/
def encode : Instr → Code
  | .reset => .request (requestWord 0x01 .n 0 0 0 0)
  | .writeBit b => .request (requestWord 0x02 .b (bitByte b) 0 0 0)
  | .readBit => .request (requestWord 0x03 .n 0 0 0 0)
  | .writeByte v => .request (requestWord 0x04 .y v 0 0 0)
  | .readByte => .request (requestWord 0x05 .n 0 0 0 0)
  | .sendCommandSkip c => .request (requestWord 0x10 .cs c 0 0 0)
  | .sendCommandMatch a c => .request (requestWord 0x10 .cm c 0 0 a)
  | .search => .request (requestWord 0x11 .n 0 0 0 0)
  | .searchReset => .request (requestWord 0x12 .n 0 0 0 0)
  | .crcCheckAddr a => .request (requestWord 0x20 .a 0 0 0 a)
  | .readScratchpad a => .request (requestWord 0x31 .k 0 0 0 a)
  | .writeScratchpad a th tl cfg => .request (requestWord 0x32 .kw th tl cfg a)
  | .getResolution a => .request (requestWord 0x33 .k 0 0 0 a)
  | .setResolution a r => .request (requestWord 0x34 .kr (r.code.setWidth 8) 0 0 a)
  | .startMeasurementSkip => .request (requestWord 0x35 .ts 0 0 0 0)
  | .startMeasurementMatch a => .request (requestWord 0x35 .tm 0 0 0 a)
  | .readTemp a r => .request (requestWord 0x36 .kr (r.code.setWidth 8) 0 0 a)
  | .measure a r => .request (requestWord 0x37 .kr (r.code.setWidth 8) 0 0 a)
  | .cmdMatchRom a => .wire (a ++ Config.cmdMatchRom)
  | .cmdSkipRom => .wire (Config.cmdSkipRom.setWidth 72)
  | .cmdSearchRom => .wire (Config.cmdSearchRom.setWidth 72)
  | .cmdConvertT => .wire (Config.cmdConvertT.setWidth 72)
  | .cmdReadScratchpad => .wire (Config.cmdReadScratchpad.setWidth 72)
  | .cmdWriteScratchpad th tl cfg =>
    .wire ((cfg ++ (tl ++ (th ++ Config.cmdWriteScratchpad)) : BitVec 32).setWidth 72)
  | .cmdCopyScratchpad => .wire (Config.cmdCopyScratchpad.setWidth 72)
  | .cmdRecallE2 => .wire (Config.cmdRecallE2.setWidth 72)

end Sys2Proof
end

