-- ==== Sys2Proof/Machine/State.lean ====
section
/-! DEFINITION. The state of the machine as plain data: the engine's registers and flags (`10_state.md` R20, R31),
its ports (R33), the observation of its latest operation (`00_scope.md` R8), its parameters, the host's side of
the ports, and the bus environment (`10_state.md` R34, `20_memory.md` R66, R67); and the state after reset
(`10_state.md` R37). -/

namespace Sys2Proof.Machine

/-! ## The engine -/

/-- The SearchState registers (`10_state.md` R20, R22 to R25). `lastDiscrepancy` holds 0 to 64 and
`lastFamilyDiscrepancy` 0 to 8: `SearchState.InRange` in `Safety.lean`. -/
structure SearchState where
  romNo                 : BitVec 64
  lastDiscrepancy       : BitVec 7
  lastFamilyDiscrepancy : BitVec 7
  lastDeviceFlag        : Bool
deriving DecidableEq, Repr

/-- The cursor from which an enumeration starts (`10_state.md` R37, `41_rom_search.md` R126). -/
def SearchState.zero : SearchState := ⟨0, 0, 0, false⟩

/-- The pin drive latch (`10_state.md` R28). -/
inductive Drive where
  | released
  | low
deriving DecidableEq, Repr

/-- The events of a pin trace (`00_scope.md` R8). -/
inductive Event where
  | low
  | release
  | sample (l : Level)
  | delay (us : Nat)
  | critEnter
  | critExit
  | hostWait (ms : Nat)
deriving DecidableEq, Repr

/-- The events of a slot trace (`40_signaling.md` R110). -/
inductive Slot where
  | reset (present : Bool)
  | write (b : Bool)
  | read (b : Bool)
deriving DecidableEq, Repr

/-- The pin and its observation: the drive latch, the `crit` output, and the two traces of the latest
operation, oldest event first. -/
structure Pin where
  drive : Drive
  crit  : Bool
  trace : List Event
  slots : List Slot
deriving DecidableEq, Repr

/-- The typed errors of the block, with the information each records (`60_exceptions.md` R180). `Timeout` is
not among them: no operation raises it (R187). -/
inductive Err where
  | busNotHigh
  | pin (e : PinErr)
  | unexpectedResponse
  | familyCodeMismatch
  | crcMismatch
deriving DecidableEq, Repr

/-- The status codes by name (`60_exceptions.md` R180). -/
inductive Status where
  | ok
  | busNotHigh
  | pin
  | unexpectedResponse
  | familyCodeMismatch
  | crcMismatch
  | timeout
  | illegal
deriving DecidableEq, Repr

/-- A response as a record (`30_encoding.md` R75). `temp` is the integer a `Temperature` holds (`10_state.md`
R36), so that the record serves every width `TEMP_BITS`; the word is `Response.toWord`. Log 17. -/
structure Response where
  status : Status
  aux    : Byte
  temp   : Int
  data   : BitVec 72
deriving DecidableEq, Repr

/-- The operands of a `MEASURE` whose `HostWait` the host has not answered (`00_scope.md` R17): all that is
left of the sequencer position at that point. Log 14. -/
structure Suspended where
  addr : Address
  res  : Resolution
deriving DecidableEq, Repr

/-- The engine's side of the handshake (`10_state.md` R29, R33). -/
structure Port where
  busy      : Bool
  respValid : Bool
  resp      : Response
  waitReq   : Bool
  waitMs    : BitVec 10
  suspended : Option Suspended
deriving DecidableEq, Repr

/-! ## The host -/

/-- What the host does next, in its order: it presents a code, or lets time pass with no request (the host's
suspension between two requests, `70_reset_and_hazards.md` R222). Log 2, log 19. -/
inductive HostInput where
  | code (c : Code)
  | pause (ms : Nat)
deriving DecidableEq, Repr

/-- The host's side of the ports: what it presents, its answer to `HostWait`, and `rst` (`10_state.md` R33). Its
lock, its several activities and its interrupts are not modelled: log 22. -/
structure HostSide where
  inputs   : List HostInput
  waitDone : Bool
  rst      : Bool
deriving DecidableEq, Repr

/-! ## The bus environment -/

/-- The three slots of a search triplet as a device counts them (`20_memory.md` R66). -/
inductive Phase where
  | probe
  | complement
  | direction
deriving DecidableEq, Repr

/-- The modes of a reference device (`20_memory.md` R66). `romCommand k acc` and `function k acc` have
collected `k` bits, in the low bits of `acc`. -/
inductive Mode where
  | romCommand (k : Nat) (acc : Byte)
  | matching (i : Nat)
  | searching (i : Nat) (p : Phase)
  | function (k : Nat) (acc : Byte)
  | sendSp (j : Nat)
  | recvSp (j : Nat)
  | idle
deriving DecidableEq, Repr

/-- A conversion in progress (`10_state.md` R34, `20_memory.md` R66): the configuration byte under which it was
started, and when, by the count `Env.elapsedUs`. -/
structure Conversion where
  cfg       : Byte
  startedUs : Nat
deriving DecidableEq, Repr

/-- A reference device (`20_memory.md` R66): its constant address, its scratchpad, its mode, the conversion in
progress, and the raw temperatures its next conversions will yield, as far as the state fixes them: after the last of
them each is a free value (log 27). -/
structure Device where
  rom        : Address
  sp         : Scratchpad
  mode       : Mode
  converting : Option Conversion
  temps      : List (BitVec 16)
deriving DecidableEq, Repr

/-- The remote memory (`20_memory.md` R50): the attached devices, by rising address. An address that no device
of the list has is unoccupied. DESIGN CHOICE, safe: log 26. -/
abbrev Memory := List Device

/-- The canonical form: addresses strictly rise, so each occupies one point of the ROM address space and equal
populations are equal lists. -/
abbrev Memory.wf (m : Memory) : Prop := m.Pairwise fun a b => a.rom.toNat < b.rom.toNat

/-- The environment (`00_scope.md` R6, `20_memory.md` R66, R67): answers fixed in advance, one entry per pin
primitive, `none` leaving the answer to the line; how many answers were asked; the reference devices, if this is a
reference environment (with none, an answer left to the line is free: log 6, log 7); how many occasions a conversion
had to end (log 9); the least time that has passed, in microseconds, the sum of the delays and waits (`00_scope.md`
R15; log 9); and for how long at the least the engine holds the line low, or held it low the last time
(`70_reset_and_hazards.md` R224; log 8). -/
structure Env where
  script    : List (Option Answer)
  asked     : Nat
  remote    : Option Memory
  ticks     : Nat
  elapsedUs : Nat
  lowUs     : Nat
deriving DecidableEq, Repr

/-! ## The whole state -/

/-- The state. `draws` counts the draws of the SearchState (`41_rom_search.md` R128; log 13). -/
structure State where
  search : SearchState
  pin    : Pin
  port   : Port
  host   : HostSide
  env    : Env
  params : Params
  draws  : Nat
deriving DecidableEq, Repr

/-- Why a step could stop with a fault: no reason. The spec gives the engine typed errors, each "a response
like any other" (`60_exceptions.md` R188, R190), no address that can be absent (`20_memory.md` R59) and no
undefined behaviour (`93_implementation_defined.md` part 1, last paragraph). Safe: log 21. -/
inductive Fault
deriving DecidableEq, Repr

/-- Why a step could be refused. -/
inductive Refusal where
  /-- Raised by an arm of `exec` for an instruction that has no meaning; no arm raises it. Safe. -/
  | notModelled (mnemonic : String)
deriving DecidableEq, Repr

/-- The outcomes of a step of this machine. -/
abbrev Outcome := Host.Outcome State Fault Refusal

/-- A response with every field zero; the value the model names for the response register before the first
response (`10_state.md` R37 leaves it unspecified). DESIGN CHOICE, unsafe: log 15. -/
def Response.zero : Response := ⟨.ok, 0, 0, 0⟩

/-- The machine right after reset (`10_state.md` R37, `70_reset_and_hazards.md` R210, R211), in the default
environment of `20_memory.md` R67. The fields R37 does not name: log 15. -/
def State.reset : State where
  search := .zero
  pin    := { drive := .released, crit := false, trace := [], slots := [] }
  port   := { busy := false, respValid := false, resp := .zero, waitReq := false, waitMs := 0, suspended := none }
  host   := { inputs := [], waitDone := true, rst := false }
  env    := { script := [], asked := 0, remote := none, ticks := 0, elapsedUs := 0, lowUs := 0 }
  params := Config.params
  draws  := 0

end Sys2Proof.Machine
end

