-- ==== Sys2Proof/Machine/Operands.lean ====
section
/-! DEFINITION. Operands and results: bits and bytes of a value, the resolution tables, the temperature
conversion, and the response of each kind of result. -/

namespace Sys2Proof

/-- A bit from a sampled level: `high` is 1 (`00_scope.md` R12). -/
def Level.toBool : Level → Bool
  | .low => false
  | .high => true

/-- The level that carries a bit. -/
def levelOf (b : Bool) : Level := if b then .high else .low

/-! ## Resolutions (`10_state.md` R35, `43_ds18b20.md` R168) -/

/-- `CFG(res)` (`30_encoding.md` R84). -/
def Resolution.cfg : Resolution → Byte
  | .bits9 => 0x1F
  | .bits10 => 0x3F
  | .bits11 => 0x5F
  | .bits12 => 0x7F

/-- The resolution a configuration byte means, by the whole byte; any other byte is none (`30_encoding.md`
R84). -/
def Resolution.ofCfg (c : Byte) : Option Resolution :=
  if c = 0x1F then some .bits9
  else if c = 0x3F then some .bits10
  else if c = 0x5F then some .bits11
  else if c = 0x7F then some .bits12
  else none

/-- `CONV_MS(res)` (`00_scope.md` R10). -/
def Resolution.convMs : Resolution → Nat
  | .bits9 => 94
  | .bits10 => 188
  | .bits11 => 375
  | .bits12 => 750

/-- The number of bits, 9 to 12 (`10_state.md` R35). -/
def Resolution.bits : Resolution → Nat
  | .bits9 => 9
  | .bits10 => 10
  | .bits11 => 11
  | .bits12 => 12

/-- `MASK(res)` (`43_ds18b20.md` R168). -/
def Resolution.mask (r : Resolution) : BitVec 16 := 0xFFFF#16 <<< (12 - r.bits)

end Sys2Proof

namespace Sys2Proof.Machine

/-! ## Bits and bytes (`00_scope.md` R12, R13; `20_memory.md` R53, R54) -/

/-- `x[i] <- b` (`00_scope.md` R13). -/
def setBit {w : Nat} (x : BitVec w) (i : Nat) (b : Bool) : BitVec w :=
  if b then x ||| BitVec.twoPow w i else x &&& ~~~BitVec.twoPow w i

/-- Byte `k` of a value, byte 0 least significant (`00_scope.md` R12). -/
def byteAt {w : Nat} (x : BitVec w) (k : Nat) : Byte := x.extractLsb' (8 * k) 8

/-- `x` with byte `k` replaced (`00_scope.md` R13). -/
def setByteAt {w : Nat} (x : BitVec w) (k : Nat) (v : Byte) : BitVec w :=
  x &&& ~~~((0xFF#8).setWidth w <<< (8 * k)) ||| (v.setWidth w <<< (8 * k))

/-- The first `n` bytes of a value, byte 0 first. -/
def bytesOf {w : Nat} (n : Nat) (x : BitVec w) : List Byte := (List.range n).map (byteAt x)

/-- The eight bytes of an Address, byte 0 first (`20_memory.md` R54). -/
def addressBytes (a : Address) : List Byte := bytesOf 8 a

/-- The bits of a byte in the order they travel, bit 0 first (`20_memory.md` R53). -/
def bitsOf (v : Byte) : List Bool := (List.range 8).map v.getLsbD

/-- Nine bytes as the 72 bits of `data`, `sp[k] = data[8k+7:8k]` (`30_encoding.md` R75). -/
def packBytes (bytes : List Byte) : BitVec 72 := bytes.foldr (fun b acc => acc <<< 8 ||| b.setWidth 72) 0

/-! ## Temperature (`43_ds18b20.md` R162) -/

/-- `raw = {sp[1], sp[0]}` (`30_encoding.md` R85). -/
def rawTemp (sp0 sp1 : Byte) : BitVec 16 := sp1 ++ sp0

/-- `decode_temp` on the raw value, as W-bit two's complement with F fractional bits (R162). -/
def decodeTempBits (f w : Nat) (raw : BitVec 16) (r : Resolution) : BitVec w :=
  (raw &&& r.mask).signExtend w <<< (f - 4)

/-- `decode_temp`: the integer the `Temperature` holds (`10_state.md` R36). -/
def decodeTemp (p : Params) (sp : List Byte) (r : Resolution) : Int :=
  (decodeTempBits p.tempFracBits p.tempBits (rawTemp (sp.getD 0 0) (sp.getD 1 0)) r).toInt

/-! ## Responses (`30_encoding.md` R75) -/

/-- The status code (`60_exceptions.md` R180). -/
def Status.code : Status → Byte
  | .ok => 0x00
  | .busNotHigh => 0x01
  | .pin => 0x02
  | .unexpectedResponse => 0x03
  | .familyCodeMismatch => 0x04
  | .crcMismatch => 0x05
  | .timeout => 0x06
  | .illegal => 0xFF

/-- The status of an error (`60_exceptions.md` R180). -/
def Err.status : Err → Status
  | .busNotHigh => .busNotHigh
  | .pin _ => .pin
  | .unexpectedResponse => .unexpectedResponse
  | .familyCodeMismatch => .familyCodeMismatch
  | .crcMismatch => .crcMismatch

/-- The information an error records in `aux`: the code of the `PinErr` for `Pin`, else 0 (`60_exceptions.md`
R180). -/
def Err.info (p : Params) : Err → Byte
  | .pin e => p.pinErr.code e
  | .busNotHigh | .unexpectedResponse | .familyCodeMismatch | .crcMismatch => 0

/-- An error response carries the code and `aux`, nothing else (R75, `60_exceptions.md` R190 (3)). -/
def Response.ofErr (p : Params) (e : Err) : Response := ⟨e.status, e.info p, 0, 0⟩

/-- The response of an illegal request (`60_exceptions.md` R186). -/
def Response.illegal : Response := ⟨.illegal, 0, 0, 0⟩

/-- Success with no result. -/
def Response.done : Response := ⟨.ok, 0, 0, 0⟩

/-- Success with a bit in `aux[0]` (`READ_BIT`). -/
def Response.ofBit (b : Bool) : Response := ⟨.ok, bitByte b, 0, 0⟩

/-- Success with a byte in `aux` (`READ_BYTE`). -/
def Response.ofByte (v : Byte) : Response := ⟨.ok, v, 0, 0⟩

/-- `SEARCH`: `found` in `aux[0]`, and the Address in `data[63:0]` when found. -/
def Response.ofSearch : Option Address → Response
  | some a => ⟨.ok, 1, 0, a.setWidth 72⟩
  | none => ⟨.ok, 0, 0, 0⟩

/-- Success with nine bytes in `data` (`READ_SCRATCHPAD`). -/
def Response.ofScratchpad (sp : List Byte) : Response := ⟨.ok, 0, 0, packBytes sp⟩

/-- `GET_RESOLUTION`: the code `r` in `aux[1:0]`. -/
def Response.ofResolution (r : Resolution) : Response := ⟨.ok, r.code.setWidth 8, 0, 0⟩

/-- `READ_TEMP`, `MEASURE`: the temperature. -/
def Response.ofTemp (t : Int) : Response := ⟨.ok, 0, t, 0⟩

/-- The response word (R75): status, aux, temp in two's complement on 16 bits, data, reserved zeros. -/
def Response.toWord (r : Response) : RequestWord :=
  (0 : BitVec 24) ++ (r.data ++ (BitVec.ofInt 16 r.temp ++ (r.aux ++ r.status.code)))

end Sys2Proof.Machine
end

