-- ==== Sys2Proof/Machine/Device.lean ====
section
/-! DEFINITION. The reference devices (`20_memory.md` R66, in the spec's own words general knowledge: log 7): how each
answers and follows the slots on the line, and the remote memory they make. Devices see complete slots
(`40_signaling.md` R110), and reset pulses; a slot cut short is nothing to them (DESIGN CHOICE: log 8). -/

namespace Sys2Proof.Machine

/-! ## The remote memory -/

/-- The device at an address, if it is occupied (`20_memory.md` R50). -/
def Memory.find (m : Memory) (a : Address) : Option Device := List.find? (fun d => d.rom == a) m

/-- Byte `k` of the scratchpad of the device at `a`; nothing where no device is (`20_memory.md` R50). -/
def Memory.readByte (m : Memory) (a : Address) (k : Fin 9) : Option Byte :=
  (Memory.find m a).map fun d => byteAt d.sp k

/-! ## One device -/

/-- The CRC byte a scratchpad should hold (`30_encoding.md` R83). -/
def spCrc (sp : Scratchpad) : Byte := crc8 (bytesOf 8 sp)

/-- A conversion ends at occasion `n`: bytes 0 and 1 hold the new raw temperature, byte 8 the new CRC (R66). The
temperature is the next one the state fixes, or a free value. Log 27. -/
def endConversion (n : Nat) (d : Device) : Device :=
  let raw := d.temps.headD (Config.freeTemperature n d.rom)
  let sp := setByteAt (setByteAt d.sp 0 (byteAt raw 0)) 1 (byteAt raw 1)
  { d with sp := setByteAt sp 8 (spCrc sp), converting := none, temps := d.temps.tail }

/-- A convert command at the count `now` of elapsed microseconds: a conversion starts, bounded by `CONV_MS` of the
device's configured resolution (R66). One in progress is dropped: what a device does with a second convert command is
not in the source (`43_ds18b20.md` R160, U4). DESIGN CHOICE, unsafe: log 28. -/
def startConversion (now : Nat) (d : Device) : Device :=
  { d with mode := .idle, converting := some { cfg := byteAt d.sp 4, startedUs := now } }

/-- When a conversion has ended for certain: `CONV_MS` of the configured resolution after its start (R66,
`70_reset_and_hazards.md` R222). A configuration byte that names no resolution gives no bound. Log 9. -/
def Conversion.due (c : Conversion) : Option Nat :=
  (Resolution.ofCfg c.cfg).map fun r => c.startedUs + 1000 * r.convMs

/-- At occasion `n`, `now` microseconds having passed: a conversion whose bound has passed has ended, and the
environment may end another ("a time the environment chooses", R66): a free choice. Log 9. -/
def tickDevice (n now : Nat) (d : Device) : Device :=
  match d.converting with
  | none => d
  | some c => if c.due.any (· ≤ now) || Config.conversionEnds n d.rom then endConversion n d else d

/-- The bit a device sends in a read slot; 1 when it sends none (R66). -/
def sentBit (d : Device) : Bool :=
  match d.mode with
  | .searching i .probe => d.rom.getLsbD i
  | .searching i .complement => !d.rom.getLsbD i
  | .sendSp j => d.sp.getLsbD j
  | _ => true

/-- A device after a reset slot: it waits for a ROM command and forgets any transfer (R66). -/
def onReset (d : Device) : Device := { d with mode := .romCommand 0 0 }

/-- A device after a read slot (R66). -/
def onRead (d : Device) : Device :=
  match d.mode with
  | .searching i .probe => { d with mode := .searching i .complement }
  | .searching i .complement => { d with mode := .searching i .direction }
  | .sendSp j => { d with mode := if j < 71 then .sendSp (j + 1) else .idle }
  | _ => d

/-- What a device does with a ROM command byte (R66). -/
def romCommandMode (c : Byte) : Mode :=
  if c = Config.cmdSkipRom then .function 0 0
  else if c = Config.cmdMatchRom then .matching 0
  else if c = Config.cmdSearchRom then .searching 0 .probe
  else .idle

/-- What a selected device does with a function command byte (R66). -/
def onFunction (now : Nat) (d : Device) (c : Byte) : Device :=
  if c = Config.cmdReadScratchpad then { d with mode := .sendSp 0 }
  else if c = Config.cmdWriteScratchpad then { d with mode := .recvSp 0 }
  else if c = Config.cmdConvertT then startConversion now d
  else { d with mode := .idle }

/-- A device receives bit `j` of a scratchpad write, stored in bit `j mod 8` of byte `2 + j div 8`; after bit 23
the CRC byte is recomputed (R66). -/
def onRecv (d : Device) (j : Nat) (b : Bool) : Device :=
  let sp := setBit d.sp (16 + j) b
  if j < 23 then { d with sp := sp, mode := .recvSp (j + 1) }
  else { d with sp := setByteAt sp 8 (spCrc sp), mode := .idle }

/-- A device after a write slot (R66). -/
def onWrite (now : Nat) (b : Bool) (d : Device) : Device :=
  match d.mode with
  | .romCommand k acc =>
    if k < 7 then { d with mode := .romCommand (k + 1) (setBit acc k b) }
    else { d with mode := romCommandMode (setBit acc k b) }
  | .matching i =>
    if b = d.rom.getLsbD i then { d with mode := if i < 63 then .matching (i + 1) else .function 0 0 }
    else { d with mode := .idle }
  | .searching i .direction =>
    if b = d.rom.getLsbD i ∧ i < 63 then { d with mode := .searching (i + 1) .probe } else { d with mode := .idle }
  | .function k acc =>
    if k < 7 then { d with mode := .function (k + 1) (setBit acc k b) } else onFunction now d (setBit acc k b)
  | .recvSp j => onRecv d j b
  | _ => d

/-! ## The line -/

/-- What a sample is of: the idle line before a reset pulse, the presence answer after it, or a read slot. -/
inductive SampleKind where
  | poll
  | presence
  | read
deriving DecidableEq, Repr

/-- Whether some reference device pulls the line low at this sample (R66, `20_memory.md` R65). -/
def Memory.pullsLow (m : Memory) : SampleKind → Bool
  | .poll => false
  | .presence => !m.isEmpty
  | .read => !m.all sentBit

/-- The level of the line with reference devices: low if the engine or a device pulls it low (`10_state.md`
R28). -/
def lineLevel (dr : Drive) (m : Memory) (k : SampleKind) : Level :=
  if dr = .low ∨ Memory.pullsLow m k = true then .low else .high

/-- A device after a complete slot (R66). A write or read slot whose low time was the end of a longer one, long enough
for a reset pulse (`70_reset_and_hazards.md` R224), is that pulse to the device. Log 8. -/
def onSlot (now : Nat) (pulse : Bool) (slot : Slot) (d : Device) : Device :=
  match slot with
  | .reset _ => onReset d
  | .write b => if pulse then onReset d else onWrite now b d
  | .read _ => if pulse then onReset d else onRead d

/-- The devices after a complete slot (`40_signaling.md` R110, R66), which ends at the count `now`. -/
def Memory.afterSlot (m : Memory) (now : Nat) (pulse : Bool) (slot : Slot) : Memory := m.map (onSlot now pulse slot)

/-- The devices after time has passed, up to the count `now`, which is occasion `n`. -/
def Memory.afterWait (m : Memory) (n now : Nat) : Memory := m.map (tickDevice n now)

/-- The devices after a low time of the line: long enough, it is a reset pulse to each
(`70_reset_and_hazards.md` R224). -/
def Memory.afterLow (m : Memory) (pulse : Bool) : Memory := m.map fun d => if pulse then onReset d else d

end Sys2Proof.Machine
end

