-- ==== Sys2Proof/Machine/Flags.lean ====
section
/-! DEFINITION. The flags (`10_state.md` R31): `last_device_flag` with the rest of the search cursor, and
`present`. `busy` and `crit` are written by the handshake and the critical section in `Ops.lean`. There are no
condition codes. -/

namespace Sys2Proof.Machine

/-- The presence flag: the presence sample is `Low` (`40_signaling.md` R100). -/
def presentFlag (l : Level) : Bool := l == .low

/-- The direction taken at a branch point at position `p` (`41_rom_search.md` R122): below `last_discrepancy`
replay `rom_no[p-1]`, at it 1, above it 0. -/
def branchDir (c : SearchState) (p : Nat) : Bool :=
  if p < c.lastDiscrepancy.toNat then c.romNo.getLsbD (p - 1) else p == c.lastDiscrepancy.toNat

/-- What one search position decides (R122): the direction, the cursor with what a branch point records in
`last_family_discrepancy`, and the new `last_zero`; `none` when no device responded. -/
def decideBit (c : SearchState) (p lastZero : Nat) (idBit cmpBit : Bool) : Option (Bool × SearchState × Nat) :=
  match idBit, cmpBit with
  | true, true => none
  | true, false => some (true, c, lastZero)
  | false, true => some (false, c, lastZero)
  | false, false =>
    if branchDir c p then some (true, c, lastZero)
    else if p < 9 then some (false, { c with lastFamilyDiscrepancy := BitVec.ofNat 7 p }, p)
    else some (false, c, p)

/-- `rom_no[p-1] <- dir` (R121, R122). -/
def recordDir (c : SearchState) (p : Nat) (dir : Bool) : SearchState :=
  { c with romNo := setBit c.romNo (p - 1) dir }

/-- The end of a complete pass (R123): `last_discrepancy <- last_zero`, and `last_device_flag` is set when that
is 0. The flag is not cleared here (R31: it is cleared by the exhausted call, `SEARCH_RESET` and reset). -/
def endOfPass (c : SearchState) (lastZero : Nat) : SearchState :=
  { c with
    lastDiscrepancy := BitVec.ofNat 7 lastZero
    lastDeviceFlag  := lastZero == 0 || c.lastDeviceFlag }

end Sys2Proof.Machine
end

