-- ==== Sys2Proof/Machine/Ops.lean ====
section
/-! DEFINITION. The named operations over the state: the pin primitives and delays (`00_scope.md` R14 to R17), the
slot abstraction (`40_signaling.md` R110), the request handshake (`10_state.md` R29), and raising an error
(`00_scope.md` R18, `60_exceptions.md` R190). -/

namespace Sys2Proof.Machine

/-! ## Results of a sub-operation -/

/-- A sub-operation either yields a value or raises an error; either way the state is what the steps executed so
far made it (`00_scope.md` R18). -/
inductive Result (α : Type) where
  | ok (value : α) (state : State)
  | raised (err : Err) (state : State)
deriving DecidableEq, Repr

/-- `call` (`00_scope.md` R18): go on with the value, or let the error propagate unchanged. -/
def Result.andThen {α β : Type} (x : Result α) (f : α → State → Result β) : Result β :=
  match x with
  | .ok a s => f a s
  | .raised e s => .raised e s

/-- The state a sub-operation leaves, whichever way it ended. -/
def Result.final {α : Type} : Result α → State
  | .ok _ s => s
  | .raised _ s => s

/-! ## The trace -/

/-- Append an event to the pin trace (`00_scope.md` R8). -/
def emit (ev : Event) (s : State) : State := { s with pin := { s.pin with trace := s.pin.trace ++ [ev] } }

/-! ## Pin primitives (`00_scope.md` R14) -/

/-- What the line itself answers: the reference devices, or a free value in the unconstrained environment
(`20_memory.md` R66, R67). `PinLow` and `PinRelease` read no level. -/
def lineAnswer (s : State) (kind : Option SampleKind) : Answer :=
  match s.env.remote, kind with
  | none, _ => Config.freeAnswer s.env.asked
  | some _, none => .level .high
  | some m, some k => .level (lineLevel s.pin.drive m k)

/-- The environment's answer to the next primitive: the script's entry where it has one, else the line's. -/
def nextAnswer (s : State) (kind : Option SampleKind) : Answer :=
  match s.env.script with
  | some a :: _ => a
  | _ => lineAnswer s kind

/-- The environment after it has answered a primitive. -/
def Env.answered (e : Env) : Env := { e with script := e.script.tail, asked := e.asked + 1 }

/-- The next answer is taken from the environment. -/
def takeAnswer (s : State) : State := { s with env := s.env.answered }

/-- A pin primitive: on a fault it has no effect on the pin and appends nothing, and the operation raises
`Pin(e)`; else it has its effect (R14, `60_exceptions.md` R182). -/
def primitive (kind : Option SampleKind) (effect : Level → State → State) (s : State) : Result Level :=
  match nextAnswer s kind with
  | .fault e => .raised (.pin e) (takeAnswer s)
  | .level l => .ok l (effect l (takeAnswer s))

/-- The low time as the line is driven from `old` to `new`: a new low time begins when a released line is pulled
low. -/
def Env.driven (old new : Drive) (e : Env) : Env :=
  { e with lowUs := if old = .released ∧ new = .low then 0 else e.lowUs }

/-- Set the drive latch and append its event. -/
def setDrive (d : Drive) (s : State) : State :=
  let s := { s with pin := { s.pin with drive := d }, env := s.env.driven s.pin.drive d }
  match d with
  | .low => emit .low s
  | .released => emit .release s

/-- `PinLow()`. -/
def pinLow (s : State) : Result Unit := (primitive none (fun _ => setDrive .low) s).andThen fun _ s => .ok () s

/-- `PinRelease()`. -/
def pinRelease (s : State) : Result Unit :=
  (primitive none (fun _ => setDrive .released) s).andThen fun _ s => .ok () s

/-- `PinSample()`; the kind tells the reference devices what is sampled. -/
def pinSample (k : SampleKind) (s : State) : Result Level := primitive (some k) (fun l => emit (.sample l)) s

/-- At least `us` microseconds pass with the line as it is driven (`00_scope.md` R15): conversions may have ended by
then, and have where their bound has passed (`20_memory.md` R66). Time passes here and nowhere else, in a slot, in the
poll, in a wait and in a pause, so no later sample or state shows a conversion past its bound. Log 9. -/
def Env.pass (dr : Drive) (us : Nat) (e : Env) : Env :=
  { e with
    ticks     := e.ticks + 1
    elapsedUs := e.elapsedUs + us
    lowUs     := if dr = .low then e.lowUs + us else e.lowUs
    remote    := e.remote.map fun m => Memory.afterWait m e.ticks (e.elapsedUs + us) }

/-- `Delay(n)`: it cannot fail (R14, R15). -/
def delay (us : Nat) (s : State) : State := emit (.delay us) { s with env := s.env.pass s.pin.drive us }

/-- Set the `crit` output. -/
def setCrit (b : Bool) (s : State) : State := { s with pin := { s.pin with crit := b } }

/-- `CritEnter()` (`00_scope.md` R16). -/
def critEnter (s : State) : State := emit .critEnter (setCrit true s)

/-- `CritExit()` (`00_scope.md` R16). -/
def critExit (s : State) : State := emit .critExit (setCrit false s)

/-! ## Slots and the devices -/

/-- The low time of a write slot: `T_W1L` or `T_W0L` (`40_signaling.md` R101). -/
def writeLow (t : Timing) (b : Bool) : Nat := if b then t.tW1l else t.tW0l

/-- The low time of a slot (`40_signaling.md` R100 to R102). -/
def Slot.lowUs (t : Timing) : Slot → Nat
  | .reset _ => t.tRstl
  | .write b => writeLow t b
  | .read _ => t.tRdl

/-- The low time is a reset pulse (`70_reset_and_hazards.md` R224): long enough, and longer than the low time `own` of
a write or read slot, whose proper low time is that slot and nothing else whatever its figure. Log 8. -/
def Env.isPulse (e : Env) (own : Nat) : Bool := own < e.lowUs && Config.resetPulseUs ≤ e.lowUs

/-- The engine holds the line low: the devices take the low time so far for a reset pulse if it is one. -/
def lowPulse (own : Nat) (s : State) : State :=
  { s with
    env := { s.env with
      remote := s.env.remote.map fun m => Memory.afterLow m (s.pin.drive == .low && s.env.isPulse own) } }

/-- A delay in which the line may be held low, `own` being the low time that the slot itself has. -/
def hold (own us : Nat) (s : State) : State := lowPulse own (delay us s)

/-- A slot is complete (`40_signaling.md` R110): it joins the slot trace and the reference devices follow it. -/
def slotDone (slot : Slot) (s : State) : State :=
  { s with
    pin := { s.pin with slots := s.pin.slots ++ [slot] }
    env := { s.env with
      remote := s.env.remote.map fun m =>
        Memory.afterSlot m s.env.elapsedUs (s.env.isPulse (slot.lowUs s.params.timing)) slot } }

/-! ## The handshake (`10_state.md` R29) -/

/-- Acceptance of a request: `busy` becomes 1 and a new observation begins. That `resp_valid` falls here is a
DESIGN CHOICE: log 16. -/
def accept (s : State) : State :=
  { s with
    port := { s.port with busy := true, respValid := false }
    pin  := { s.pin with trace := [], slots := [] } }

/-- Delivery of a response: `busy` becomes 0. -/
def respond (r : Response) (s : State) : State :=
  { s with port := { s.port with busy := false, respValid := true, resp := r } }

/-- What `raise E` does at the end of an operation (`60_exceptions.md` R190): `CritExit` first if `crit` is 1,
then the response with the error's code and information, and `busy` becomes 0. `drive` stays as the last
successful primitive set it (log 24). There is no return from an error (R192): the engine is idle and takes the next
request. -/
def deliverError (e : Err) (s : State) : State :=
  respond (.ofErr s.params e) (if s.pin.crit then critExit s else s)

/-- The end of an operation: the response of its value, or of its error. -/
def finish {α : Type} (mk : α → Response) : Result α → State
  | .ok a s => respond (mk a) s
  | .raised e s => deliverError e s

/-- A whole operation: acceptance, its steps, its response (`00_scope.md` R7). -/
def operate {α : Type} (mk : α → Response) (op : State → Result α) (s : State) : Outcome :=
  .next (finish mk (op (accept s)))

/-- An illegal request: no pin primitive, no state change, status `ILLEGAL` (`60_exceptions.md` R186). -/
def illegal (s : State) : State := respond .illegal (accept s)

/-! ## `HostWait` (`00_scope.md` R17) -/

/-- The environment lets at least `ms` milliseconds pass. -/
def elapse (ms : Nat) (s : State) : State :=
  lowPulse 0 { s with env := s.env.pass s.pin.drive (1000 * ms) }

/-- `HostWait(ms)` is raised: `wait_req` with the figure, and the operands to resume with. -/
def raiseWait (w : Suspended) (s : State) : State :=
  emit (.hostWait w.res.convMs)
    { s with port := { s.port with
        waitReq := true, waitMs := BitVec.ofNat 10 w.res.convMs, suspended := some w } }

/-- The host reports the wait done: at least the figure has passed. `wait_ms`, which `10_state.md` R33 gives a meaning
only while a wait is pending, keeps the last figure until the next wait. DESIGN CHOICE, unsafe: log 29. -/
def endWait (w : Suspended) (s : State) : State :=
  elapse w.res.convMs { s with port := { s.port with waitReq := false, suspended := none } }

end Sys2Proof.Machine
end

