-- ==== Sys2Proof/Machine/Signaling.lean ====
section
/-! DEFINITION. The bus signaling layer (`40_signaling.md`): RESET, WRITE_BIT, READ_BIT, WRITE_BYTE, READ_BYTE, first
as the sub-operations the higher layers call, then the meanings. -/

namespace Sys2Proof.Machine

/-! ## Sub-operations -/

/-- The idle-line poll with `n` samples left (R100): sample, and after every `Low` one wait `T_POLL`.
DEDUCED: log 25. -/
def pollIdle : Nat → State → Result Unit
  | 0, s => .raised .busNotHigh s
  | n + 1, s => (pinSample .poll s).andThen fun l s =>
    match l with
    | .high => .ok () s
    | .low => pollIdle n (hold 0 s.params.timing.tPoll s)

/-- `RESET()` (R100). -/
def busReset (s : State) : Result Unit :=
  (pollIdle s.params.timing.nPoll s).andThen fun _ s =>
  (pinLow s).andThen fun _ s =>
  (pinRelease (hold 0 s.params.timing.tRstl s)).andThen fun _ s =>
  (pinSample .presence (delay s.params.timing.tPds s)).andThen fun l s =>
  let s := slotDone (.reset (presentFlag l)) (delay s.params.timing.tRstr s)
  if presentFlag l then .ok () s else .raised .unexpectedResponse s

/-- The idle time of a write slot: `T_W1R` or `T_W0R` (R101). -/
def writeIdle (t : Timing) (b : Bool) : Nat := if b then t.tW1r else t.tW0r

/-- `WRITE_BIT(b)` (R101). -/
def writeBit (b : Bool) (s : State) : Result Unit :=
  (pinLow (critEnter s)).andThen fun _ s =>
  (pinRelease (hold (writeLow s.params.timing b) (writeLow s.params.timing b) s)).andThen fun _ s =>
  .ok () (slotDone (.write b) (delay (writeIdle s.params.timing b) (critExit s)))

/-- `READ_BIT()` (R102): the bit is 1 when the sample is `High`. -/
def readBit (s : State) : Result Bool :=
  (pinLow (critEnter s)).andThen fun _ s =>
  (pinRelease (hold s.params.timing.tRdl s.params.timing.tRdl s)).andThen fun _ s =>
  (pinSample .read (delay s.params.timing.tRds s)).andThen fun l s =>
  .ok l.toBool (slotDone (.read l.toBool) (delay s.params.timing.tRdr (critExit s)))

/-- Write slots for these bits in order. -/
def writeBits : List Bool → State → Result Unit
  | [], s => .ok () s
  | b :: bs, s => (writeBit b s).andThen fun _ s => writeBits bs s

/-- `WRITE_BYTE(v)` (R103): bit 0 first. -/
def writeByte (v : Byte) (s : State) : Result Unit := writeBits (bitsOf v) s

/-- The bytes in order. -/
def writeBytes : List Byte → State → Result Unit
  | [], s => .ok () s
  | v :: vs, s => (writeByte v s).andThen fun _ s => writeBytes vs s

/-- `n` read slots into the bits of `v` from bit `k` on (R104). -/
def readBits : Nat → Nat → Byte → State → Result Byte
  | 0, _, v, s => .ok v s
  | n + 1, k, v, s => (readBit s).andThen fun b s => readBits n (k + 1) (setBit v k b) s

/-- `READ_BYTE()` (R104): bit 0 first. -/
def readByte (s : State) : Result Byte := readBits 8 0 0 s

/-- `n` bytes read in order. -/
def readBytes : Nat → State → Result (List Byte)
  | 0, s => .ok [] s
  | n + 1, s => (readByte s).andThen fun v s => (readBytes n s).andThen fun vs s => .ok (v :: vs) s

/-! ## Meanings -/

/-- RESET (R100). -/
def execReset (s : State) : Outcome := operate (fun _ => .done) busReset s

/-- WRITE_BIT (R101). -/
def execWriteBit (b : Bool) (s : State) : Outcome := operate (fun _ => .done) (writeBit b) s

/-- READ_BIT (R102): the bit in `aux[0]`. -/
def execReadBit (s : State) : Outcome := operate .ofBit readBit s

/-- WRITE_BYTE (R103). -/
def execWriteByte (v : Byte) (s : State) : Outcome := operate (fun _ => .done) (writeByte v) s

/-- READ_BYTE (R104): the byte in `aux`. -/
def execReadByte (s : State) : Outcome := operate .ofByte readByte s

end Sys2Proof.Machine
end

