-- ==== Sys2Proof/Machine/Rom.lean ====
section
/-! DEFINITION. The ROM command and device enumeration layer (`41_rom_search.md`) and the address check of the
integrity layer (`42_crc8.md` R143): SEND_COMMAND, SEARCH, SEARCH_RESET, CRC_CHECK_ADDR. -/

namespace Sys2Proof.Machine

/-! ## Selecting devices (R120) -/

/-- The target of a command: all devices, or the one with this Address (R120). -/
inductive Target where
  | skip
  | device (a : Address)
deriving DecidableEq, Repr

/-- The match command and the address, byte 0 first (R120). -/
def matchRom (a : Address) (s : State) : Result Unit :=
  (writeByte Config.cmdMatchRom s).andThen fun _ s => writeBytes (addressBytes a) s

/-- The selection after the reset slot (`30_encoding.md` R86, `select`). -/
def select : Target → State → Result Unit
  | .skip, s => writeByte Config.cmdSkipRom s
  | .device a, s => matchRom a s

/-- `SEND_COMMAND(t, c)` (R120). -/
def sendCommand (t : Target) (c : Byte) (s : State) : Result Unit :=
  (busReset s).andThen fun _ s =>
  (select t s).andThen fun _ s =>
  writeByte c s

/-! ## Search (R121 to R128) -/

/-- Set the cursor. -/
def setSearch (c : SearchState) (s : State) : State := { s with search := c }

/-- `SEARCH_RESET()` (R126). -/
def searchReset (s : State) : State := setSearch .zero s

/-- The walk with `n` positions left, at position `64 - n + 1`, having seen `last_zero` (R121, R122). The value is
the final `last_zero` when all positions were walked, or `none` when no device responded at one. -/
def searchWalk : Nat → Nat → State → Result (Option Nat)
  | 0, lastZero, s => .ok (some lastZero) s
  | n + 1, lastZero, s =>
    (readBit s).andThen fun idBit s =>
    (readBit s).andThen fun cmpBit s =>
    match decideBit s.search (64 - n) lastZero idBit cmpBit with
    | none => .ok none s
    | some (dir, c, lastZero) =>
      (writeBit dir (setSearch (recordDir c (64 - n) dir) s)).andThen fun _ s => searchWalk n lastZero s

/-- What follows the walk (R123, R125, R127): the Address, `none` for no candidate, or `CrcMismatch`. -/
def searchEnd (walked : Option Nat) (s : State) : Result (Option Address) :=
  match walked with
  | none => .ok none (searchReset s)
  | some lastZero =>
    let s := setSearch (endOfPass s.search lastZero) s
    if s.params.searchCrcCheck && !crcOk (addressBytes s.search.romNo) then .raised .crcMismatch s
    else .ok (some s.search.romNo) s

/-- A search pass from the search command on (R121). -/
def searchPass (s : State) : Result (Option Address) :=
  (writeByte Config.cmdSearchRom s).andThen fun _ s =>
  (searchWalk 64 0 s).andThen searchEnd

/-- The SearchState is drawn: each register a free value within its range (R128,
`93_implementation_defined.md` U1). Log 13. -/
def drawSearch (s : State) : State :=
  { s with
    search := {
      romNo                 := Config.freeRomNo s.draws
      lastDiscrepancy       := BitVec.ofNat 7 (Config.freeDiscrepancy s.draws).val
      lastFamilyDiscrepancy := BitVec.ofNat 7 (Config.freeFamilyDiscrepancy s.draws).val
      lastDeviceFlag        := Config.freeDeviceFlag s.draws }
    draws := s.draws + 1 }

/-- Whether an error ends a search with the SearchState unspecified (R128); after `CrcMismatch` it is defined
(R127). -/
def Err.drawsSearch : Err → Bool
  | .busNotHigh | .pin _ | .unexpectedResponse => true
  | .familyCodeMismatch | .crcMismatch => false

/-- The error exits of a search (R128). -/
def searchExit {α : Type} : Result α → Result α
  | .ok a s => .ok a s
  | .raised e s => .raised e (if e.drawsSearch then drawSearch s else s)

/-- `SEARCH()` (R121): the exhausted call (R124), or a reset slot and a pass. -/
def search (s : State) : Result (Option Address) :=
  if s.search.lastDeviceFlag then .ok none (searchReset s)
  else searchExit ((busReset s).andThen fun _ s => searchPass s)

/-! ## Address check -/

/-- `check_crc` (`42_crc8.md` R142). -/
def checkCrc (bytes : List Byte) (s : State) : Result Unit :=
  if crcOk bytes then .ok () s else .raised .crcMismatch s

/-! ## Meanings -/

/-- SEND_COMMAND skip, c (R120, form CS). -/
def execSendCommandSkip (c : Byte) (s : State) : Outcome := operate (fun _ => .done) (sendCommand .skip c) s

/-- SEND_COMMAND @a, c (R120, form CM). -/
def execSendCommandMatch (a : Address) (c : Byte) (s : State) : Outcome :=
  operate (fun _ => .done) (sendCommand (.device a) c) s

/-- SEARCH (R121): `found` in `aux[0]`, the Address in `data`. -/
def execSearch (s : State) : Outcome := operate .ofSearch search s

/-- SEARCH_RESET (R126). -/
def execSearchReset (s : State) : Outcome := operate (fun _ => .done) (fun s => .ok () (searchReset s)) s

/-- CRC_CHECK_ADDR a (`42_crc8.md` R143). -/
def execCrcCheckAddr (a : Address) (s : State) : Outcome := operate (fun _ => .done) (checkCrc (addressBytes a)) s

end Sys2Proof.Machine
end

