-- ==== Sys2Proof/Machine/Sensor.lean ====
section
/-! DEFINITION. The DS18B20 sensor driver (`43_ds18b20.md`): READ_SCRATCHPAD, WRITE_SCRATCHPAD, GET_RESOLUTION,
SET_RESOLUTION, START_MEASUREMENT, READ_TEMP, MEASURE. -/

namespace Sys2Proof.Machine

/-! ## Sub-operations -/

/-- `check_family(A)` (R150). -/
def checkFamily (a : Address) (s : State) : Result Unit :=
  if byteAt a 0 = Config.familyCode then .ok () s else .raised .familyCodeMismatch s

/-- `READ_SCRATCHPAD(A)` (R152). -/
def readScratchpad (a : Address) (s : State) : Result (List Byte) :=
  (checkFamily a s).andThen fun _ s =>
  (sendCommand (.device a) Config.cmdReadScratchpad s).andThen fun _ s =>
  (readBytes 9 s).andThen fun sp s =>
  (checkCrc sp s).andThen fun _ s => .ok sp s

/-- `WRITE_SCRATCHPAD(A, th, tl, cfg)` (R154). -/
def writeScratchpad (a : Address) (th tl cfg : Byte) (s : State) : Result Unit :=
  (checkFamily a s).andThen fun _ s =>
  (sendCommand (.device a) Config.cmdWriteScratchpad s).andThen fun _ s =>
  writeBytes [th, tl, cfg] s

/-- `GET_RESOLUTION(A)` (R156). -/
def getResolution (a : Address) (s : State) : Result Resolution :=
  (readScratchpad a s).andThen fun sp s =>
  match Resolution.ofCfg (sp.getD 4 0) with
  | some r => .ok r s
  | none => .raised .unexpectedResponse s

/-- `SET_RESOLUTION(A, res)` (R158). -/
def setResolution (a : Address) (r : Resolution) (s : State) : Result Unit :=
  (readScratchpad a s).andThen fun sp s => writeScratchpad a (sp.getD 2 0) (sp.getD 3 0) r.cfg s

/-- `START_MEASUREMENT(t)` (R160): the family check is for a targeted form only. -/
def startMeasurement (t : Target) (s : State) : Result Unit :=
  (match t with
    | .skip => Result.ok () s
    | .device a => checkFamily a s).andThen fun _ s =>
  sendCommand t Config.cmdConvertT s

/-- `READ_TEMP(A, res)` (R164). -/
def readTemp (a : Address) (r : Resolution) (s : State) : Result Int :=
  (readScratchpad a s).andThen fun sp s => .ok (decodeTemp s.params sp r) s

/-- The part of `MEASURE` after the wait, and its response (R166). -/
def resumeMeasure (w : Suspended) (s : State) : State :=
  finish .ofTemp (readTemp w.addr w.res (endWait w s))

/-- `MEASURE(A, res)` (R166): start, `HostWait`, and, once the host has answered the wait, the reading. While the
host has not answered, the engine stays busy with the wait pending (`93_implementation_defined.md` U10). Log 14. -/
def measure (w : Suspended) (s : State) : State :=
  match startMeasurement (.device w.addr) s with
  | .raised e s => deliverError e s
  | .ok _ s =>
    let s := raiseWait w s
    if s.host.waitDone then resumeMeasure w s else s

/-! ## Meanings -/

/-- READ_SCRATCHPAD @a (R152): the nine bytes in `data`. -/
def execReadScratchpad (a : Address) (s : State) : Outcome := operate .ofScratchpad (readScratchpad a) s

/-- WRITE_SCRATCHPAD @a, th, tl, cfg (R154). -/
def execWriteScratchpad (a : Address) (th tl cfg : Byte) (s : State) : Outcome :=
  operate (fun _ => .done) (writeScratchpad a th tl cfg) s

/-- GET_RESOLUTION @a (R156): the code in `aux[1:0]`. -/
def execGetResolution (a : Address) (s : State) : Outcome := operate .ofResolution (getResolution a) s

/-- SET_RESOLUTION @a, res (R158). -/
def execSetResolution (a : Address) (r : Resolution) (s : State) : Outcome :=
  operate (fun _ => .done) (setResolution a r) s

/-- START_MEASUREMENT skip (R160, form TS). -/
def execStartMeasurementSkip (s : State) : Outcome := operate (fun _ => .done) (startMeasurement .skip) s

/-- START_MEASUREMENT @a (R160, form TM). -/
def execStartMeasurementMatch (a : Address) (s : State) : Outcome :=
  operate (fun _ => .done) (startMeasurement (.device a)) s

/-- READ_TEMP @a, res (R164): the temperature in `temp`. -/
def execReadTemp (a : Address) (r : Resolution) (s : State) : Outcome := operate .ofTemp (readTemp a r) s

/-- MEASURE @a, res (R166): the temperature in `temp`. -/
def execMeasure (a : Address) (r : Resolution) (s : State) : Outcome := .next (measure ⟨a, r⟩ (accept s))

end Sys2Proof.Machine
end

