-- ==== Sys2Proof/Machine/Wire.lean ====
section
/-! DEFINITION. The wire command bytes (`30_encoding.md` R80, R81), each as the piece of the byte stream that it
begins (R86): eight write slots for the byte, least significant bit first, then what the tables say follows it on
the wire. The engine sends the same pieces inside its operations. DESIGN CHOICE: log 3, log 5. -/

namespace Sys2Proof.Machine

/-- A function command followed by nothing (R81). -/
def functionCommand (c : Byte) (s : State) : Outcome := operate (fun _ => .done) (writeByte c) s

/-- The read-scratchpad command and its nine bytes read, unchecked (R81). -/
def readScratchpadPiece (s : State) : Result (List Byte) :=
  (writeByte Config.cmdReadScratchpad s).andThen fun _ s => readBytes 9 s

/-- The write-scratchpad command and its three bytes (R81). -/
def writeScratchpadPiece (th tl cfg : Byte) (s : State) : Result Unit :=
  (writeByte Config.cmdWriteScratchpad s).andThen fun _ s => writeBytes [th, tl, cfg] s

/-- CMD_MATCH_ROM: `0x55`, then the 8 address bytes, byte 0 first (R80). -/
def execCmdMatchRom (a : Address) (s : State) : Outcome := operate (fun _ => .done) (matchRom a) s

/-- CMD_SKIP_ROM: `0xCC`, followed by nothing (R80). -/
def execCmdSkipRom (s : State) : Outcome := operate (fun _ => .done) (writeByte Config.cmdSkipRom) s

/-- CMD_SEARCH_ROM: `0xF0`, then up to 64 search triplets, with the decisions and the cursor of
`41_rom_search.md` R121 to R123 and R125 to R128 (R80). With `last_device_flag` 1 at entry the piece is sent and the bus
walked all the same: R124's test is at the entry of SEARCH, before the reset slot, and no rule gives a bare piece one.
The flag then stays 1 after a complete pass, whatever `last_zero` is (R31). DESIGN CHOICE, unsafe: log 3. -/
def execCmdSearchRom (s : State) : Outcome := operate .ofSearch (fun s => searchExit (searchPass s)) s

/-- CMD_CONVERT_T: `0x44`, followed by nothing (R81). -/
def execCmdConvertT (s : State) : Outcome := functionCommand Config.cmdConvertT s

/-- CMD_READ_SCRATCHPAD: `0xBE`, then 9 bytes read, delivered in `data` (R81). -/
def execCmdReadScratchpad (s : State) : Outcome := operate .ofScratchpad readScratchpadPiece s

/-- CMD_WRITE_SCRATCHPAD: `0x4E`, then TH, TL, config (R81). -/
def execCmdWriteScratchpad (th tl cfg : Byte) (s : State) : Outcome :=
  operate (fun _ => .done) (writeScratchpadPiece th tl cfg) s

/-- CMD_COPY_SCRATCHPAD: `0x48`, followed by nothing (R81). -/
def execCmdCopyScratchpad (s : State) : Outcome := functionCommand Config.cmdCopyScratchpad s

/-- CMD_RECALL_E2: `0xB8`, followed by nothing (R81). -/
def execCmdRecallE2 (s : State) : Outcome := functionCommand Config.cmdRecallE2 s

end Sys2Proof.Machine
end

