-- ==== Sys2Proof/Machine/Dispatch.lean ====
section
/-! DEFINITION. One arm per operation of the opcode table. -/

namespace Sys2Proof.Machine

def exec (i : Instr) (s : State) : Host.Outcome State Fault Refusal :=
  match i with
  -- signaling
  | .reset => Sys2Proof.Machine.execReset s
  | .writeBit b => Sys2Proof.Machine.execWriteBit b s
  | .readBit => Sys2Proof.Machine.execReadBit s
  | .writeByte v => Sys2Proof.Machine.execWriteByte v s
  | .readByte => Sys2Proof.Machine.execReadByte s
  -- ROM layer
  | .sendCommandSkip c => Sys2Proof.Machine.execSendCommandSkip c s
  | .sendCommandMatch a c => Sys2Proof.Machine.execSendCommandMatch a c s
  | .search => Sys2Proof.Machine.execSearch s
  | .searchReset => Sys2Proof.Machine.execSearchReset s
  -- CRC
  | .crcCheckAddr a => Sys2Proof.Machine.execCrcCheckAddr a s
  -- sensor driver
  | .readScratchpad a => Sys2Proof.Machine.execReadScratchpad a s
  | .writeScratchpad a th tl cfg => Sys2Proof.Machine.execWriteScratchpad a th tl cfg s
  | .getResolution a => Sys2Proof.Machine.execGetResolution a s
  | .setResolution a r => Sys2Proof.Machine.execSetResolution a r s
  | .startMeasurementSkip => Sys2Proof.Machine.execStartMeasurementSkip s
  | .startMeasurementMatch a => Sys2Proof.Machine.execStartMeasurementMatch a s
  | .readTemp a r => Sys2Proof.Machine.execReadTemp a r s
  | .measure a r => Sys2Proof.Machine.execMeasure a r s
  -- wire commands
  | .cmdMatchRom a => Sys2Proof.Machine.execCmdMatchRom a s
  | .cmdSkipRom => Sys2Proof.Machine.execCmdSkipRom s
  | .cmdSearchRom => Sys2Proof.Machine.execCmdSearchRom s
  | .cmdConvertT => Sys2Proof.Machine.execCmdConvertT s
  | .cmdReadScratchpad => Sys2Proof.Machine.execCmdReadScratchpad s
  | .cmdWriteScratchpad th tl cfg => Sys2Proof.Machine.execCmdWriteScratchpad th tl cfg s
  | .cmdCopyScratchpad => Sys2Proof.Machine.execCmdCopyScratchpad s
  | .cmdRecallE2 => Sys2Proof.Machine.execCmdRecallE2 s

end Sys2Proof.Machine
end

