-- ==== Sys2Proof/Machine/Host.lean ====
section
/-! DEFINITION. What surrounds one operation: the request the host presents, the pending `HostWait`, the reset
input, and time passing between requests. `Step.lean` only calls these. -/

namespace Sys2Proof.Machine

/-- The host's inputs replaced. -/
def setInputs (inputs : List HostInput) (s : State) : State := { s with host := { s.host with inputs := inputs } }

/-- Reset (`70_reset_and_hazards.md` R210): the engine takes the state of `10_state.md` R37 and an operation in
flight is abandoned without a response. The devices, the host's inputs and the parameters are not the engine's.
The input `rst` is a pulse: it is deasserted again. DESIGN CHOICE: log 18. -/
def engineReset (s : State) : State :=
  { s with
    search := State.reset.search
    pin    := State.reset.pin
    port   := State.reset.port
    host   := { s.host with rst := false } }

/-- While `busy` is 1 no request is accepted: one presented is held by the host (`10_state.md` R29, U9). A pending
wait ends when the host reports it done; until then nothing happens (U10). -/
def stepBusy (s : State) : State :=
  match s.port.suspended with
  | some w => if s.host.waitDone then resumeMeasure w s else s
  | none => s

/-- What an idle engine meets next. -/
inductive Fetched where
  /-- No request: the engine waits (`10_state.md` R37). -/
  | nothing
  /-- The host lets time pass and presents nothing (log 19). -/
  | paused (ms : Nat) (rest : List HostInput)
  /-- A code that decodes to an operation. -/
  | operation (i : Instr) (rest : List HostInput)
  /-- A code that decodes to none. -/
  | undecodable (e : DecodeError) (rest : List HostInput)
deriving DecidableEq, Repr

/-- The fetch: the head of the host's inputs, decoded (`10_state.md` R30: the program is the request stream). -/
def fetch (s : State) : Fetched :=
  match s.host.inputs with
  | [] => .nothing
  | .pause ms :: rest => .paused ms rest
  | .code c :: rest =>
    match decode c with
    | .ok i => .operation i rest
    | .error e => .undecodable e rest

/-- A code placed where the next step fetches it: at the head of the host's inputs, the engine idle and not in
reset. -/
def presentCode (c : Code) (s : State) : State :=
  { s with
    port := { s.port with busy := false, suspended := none }
    host := { s.host with inputs := .code c :: s.host.inputs, rst := false } }

end Sys2Proof.Machine
end

