-- ==== Sys2Proof/Machine/Step.lean ====
section
/-! DEFINITION. One step: a reset, a step of a pending wait, or the next thing the host presents. A request runs
whole (`00_scope.md` R7). -/

namespace Sys2Proof.Machine

/-- One step of the machine. -/
def step (s : State) : Host.Outcome State Fault Refusal :=
  if s.host.rst then .next (engineReset s)
  else if s.port.busy then .next (stepBusy s)
  else
    match fetch s with
    | .nothing => .next s
    | .paused ms rest => .next (elapse ms (setInputs rest s))
    | .operation i rest => exec i (setInputs rest s)
    | .undecodable _ rest => .next (illegal (setInputs rest s))

/-- The state with an instruction of the opcode table, `nbits` bits `w`, stored where `step` fetches it. -/
def State.withFetchWord (s : State) (nbits w : Nat) : State := presentCode (codeOfTableWord nbits w) s

end Sys2Proof.Machine
end

