-- ==== Sys2Proof/Machine/Ports.lean ====
section
/-! DEFINITION. The ports of `10_state.md` R33 as views of the state. The other ports are fields: `resp_valid`,
`wait_req`, `wait_ms` in `State.port`, `crit` in `State.pin`, `wait_done` and `rst` in `State.host`; `ow_in` and
`pin_fault` are the answers of the environment (`Ops.lean`, `nextAnswer`). -/

namespace Sys2Proof.Machine

/-- `ow_drive_low`: 1 when `drive = Low`. -/
def State.owDriveLow (s : State) : Bool := s.pin.drive == .low

/-- `req_ready`: `busy = 0`. -/
def State.reqReady (s : State) : Bool := !s.port.busy

/-- The request word presented, if any: `req_valid` and `req_word`. A wire piece that the host presents is none: it is
72 bits and `req_word` carries requests only. DESIGN CHOICE, unsafe: log 5. -/
def State.reqWord (s : State) : Option RequestWord :=
  match s.host.inputs with
  | .code (.request w) :: _ => some w
  | _ => none

/-- `req_valid`: the host presents a request. While it presents a bare wire piece, which the spec's ports do not have,
`req_valid` is 0 and `req_word` carries nothing, although an idle engine takes the piece by the same handshake, on a
presentation of its own outside these ports. DESIGN CHOICE, unsafe: log 5. -/
def State.reqValid (s : State) : Bool := s.reqWord.isSome

/-- `resp_word`; with `TEMP_BITS` over 16 the response is a record only (`30_encoding.md` R75). -/
def State.respWord (s : State) : Option RequestWord :=
  if s.params.tempBits ≤ 16 then some s.port.resp.toWord else none

end Sys2Proof.Machine
end

