-- ==== Sys2Proof/Machine/Timing.lean ====
section
/-! DEFINITION. Views of a trace: the byte trace and the pin events of a slot (`40_signaling.md` R110), nominal
durations (R111, `70_reset_and_hazards.md` R231), and the physical bounds of delays (`00_scope.md` R15). No
operation reads them. -/

namespace Sys2Proof.Machine

/-! ## Slots -/

/-- The pin events of a slot, a reset slot past its poll loop (R110, by substitution of R100 to R102). -/
def Slot.events (t : Timing) : Slot → List Event
  | .reset present =>
    [.low, .delay t.tRstl, .release, .delay t.tPds, .sample (if present then .low else .high), .delay t.tRstr]
  | .write b => [.critEnter, .low, .delay (writeLow t b), .release, .critExit, .delay (writeIdle t b)]
  | .read b =>
    [.critEnter, .low, .delay t.tRdl, .release, .delay t.tRds, .sample (levelOf b), .critExit, .delay t.tRdr]

/-- The eight write slots of a byte, `W8(v)`. -/
def w8 (v : Byte) : List Slot := (bitsOf v).map .write

/-- The eight read slots of a byte, `R8(v)`. -/
def r8 (v : Byte) : List Slot := (bitsOf v).map .read

/-- The slots of a selection (`30_encoding.md` R86): skip, or match with the address, byte 0 first. -/
def matchSlots (a : Address) : List Slot := w8 Config.cmdMatchRom ++ (addressBytes a).flatMap w8

/-- The events of a byte trace (R110): the reset slot, whole bytes, and slots that make no whole byte. -/
inductive ByteEvent where
  | reset (present : Bool)
  | w8 (v : Byte)
  | r8 (v : Byte)
  | slot (s : Slot)
deriving DecidableEq, Repr

/-- A byte from its bits, bit 0 first. -/
def byteOfBits (bits : List Bool) : Byte := bits.foldr (fun b acc => acc <<< 1 ||| bitByte b) 0

/-- The byte trace of a slot trace: eight consecutive slots of one direction make a byte (R110). -/
def byteTrace : List Slot → List ByteEvent
  | .write a :: .write b :: .write c :: .write d :: .write e :: .write f :: .write g :: .write h :: rest =>
    .w8 (byteOfBits [a, b, c, d, e, f, g, h]) :: byteTrace rest
  | .read a :: .read b :: .read c :: .read d :: .read e :: .read f :: .read g :: .read h :: rest =>
    .r8 (byteOfBits [a, b, c, d, e, f, g, h]) :: byteTrace rest
  | .reset p :: rest => .reset p :: byteTrace rest
  | s :: rest => .slot s :: byteTrace rest
  | [] => []

/-! ## Durations -/

/-- The nominal microseconds of an event: the figure of a delay, else 0 (R111). -/
def Event.nominalUs : Event → Nat
  | .delay us => us
  | .low | .release | .sample _ | .critEnter | .critExit | .hostWait _ => 0

/-- The nominal duration of a trace: the sum of its `Delay` figures (R111, R231). -/
def nominalUs (trace : List Event) : Nat := (trace.map Event.nominalUs).sum

/-- The milliseconds a trace asks of the host's wait. -/
def hostWaitMs (trace : List Event) : Nat :=
  (trace.map fun
    | .hostWait ms => ms
    | .low | .release | .sample _ | .delay _ | .critEnter | .critExit => 0).sum

/-- The number of 0 bits of a byte, `z(x)` of R231. -/
def zeroBits (v : Byte) : Nat := ((bitsOf v).filter (!·)).length

/-- The physical bounds of `Delay(n)` (`00_scope.md` R15): at least `n`; at most `n + SLOT_TOL_US` inside a
critical section, and no upper bound outside. -/
def delayBounds (p : Params) (crit : Bool) (us : Nat) : Nat × Option Nat :=
  (us, if crit then some (us + p.slotTolUs) else none)

end Sys2Proof.Machine
end

