-- ==== Sys2Proof/Safety.lean ====
section
/-! DEFINITION. The terms of the claims: the environment's coming answers, what a completed operation is, what an
operation leaves alone, and the invariant of the machine. -/

namespace Sys2Proof.Machine

/-! ## The environment's coming answers -/

/-- The script's entry for the `k`-th primitive from now, where it has one. -/
def Env.given (e : Env) (k : Nat) : Option Answer := (e.script[k]?).join

/-- The pin fault of the `k`-th primitive from now, if it faults: by the script, or freely in the unconstrained
environment; the reference devices never fault a pin (`20_memory.md` R66, R67). -/
def Env.faultAt (e : Env) (k : Nat) : Option PinErr :=
  match e.given k with
  | some (.fault x) => some x
  | some (.level _) => none
  | none =>
    match e.remote, Config.freeAnswer (e.asked + k) with
    | some _, _ => none
    | none, .fault x => some x
    | none, .level _ => none

/-- None of the next `n` primitives faults. -/
abbrev Env.Unfaulted (e : Env) (n : Nat) : Prop := ∀ k, k < n → e.faultAt k = none

/-- The level the `k`-th primitive from now samples if it does not fault, the drive latch being `dr` then and the
devices as they are now. -/
def Env.levelAt (e : Env) (k : Nat) (dr : Drive) (kind : SampleKind) : Level :=
  match e.given k with
  | some (.level l) => l
  | some (.fault _) => .low
  | none =>
    match e.remote, Config.freeAnswer (e.asked + k) with
    | some m, _ => lineLevel dr m kind
    | none, .level l => l
    | none, .fault _ => .low

/-- The environment after `n` primitives, apart from what the devices do. -/
def Env.advance (e : Env) (n : Nat) : Env := { e with script := e.script.drop n, asked := e.asked + n }

/-- The line is idle after `p` `Low` samples of the poll: a reset pulse will be sent (`40_signaling.md` R100). -/
abbrev LineIdle (s : State) (p : Nat) : Prop :=
  p < s.params.timing.nPoll ∧ (∀ k, k < p → s.env.levelAt k s.pin.drive .poll = .low) ∧
    s.env.levelAt p s.pin.drive .poll = .high

/-- The line is idle after `p` `Low` samples, a device is present, and none of the next `p + n` primitives
faults. -/
abbrev LineReady (s : State) (p n : Nat) : Prop :=
  LineIdle s p ∧ s.env.levelAt (p + 3) .released .presence = .low ∧ s.env.Unfaulted (p + n)

/-- The state with the answers that come after the next `n` primitives, and the line released: what a second
transaction starts from, as far as the poll, presence and faults go. -/
abbrev State.later (s : State) (n : Nat) : State :=
  { s with pin := { s.pin with drive := .released }, env := s.env.advance n }

/-- The poll samples before the reset pulse: `p` times `Low`, then `High` (R100). -/
def pollEvents (t : Timing) (p : Nat) : List Event :=
  (List.replicate p [Event.sample .low, .delay t.tPoll]).flatten ++ [.sample .high]

/-- A write or read slot begun now, of low time `own`, does not end a low time that is a reset pulse to the devices
(`70_reset_and_hazards.md` R224): the line is released, or has not been low for long. -/
abbrev NoPulse (s : State) (own : Nat) : Prop :=
  s.pin.drive = .released ∨ s.env.lowUs = 0 ∨ s.env.lowUs + own < Config.resetPulseUs

/-- The state is in the reference environment of `20_memory.md` R66 with these devices: no fault is scripted, the
engine does not hold the line, and the reset poll takes at least one sample. -/
abbrev Reference (s : State) (m : Memory) : Prop :=
  s.env.script = [] ∧ s.env.remote = some m ∧ Memory.wf m ∧ s.pin.drive = .released ∧ 0 < s.params.timing.nPoll

/-! ## Completion and frames -/

/-- The operation ends with this response: delivered, `busy` 0, the wait ports as they were (`10_state.md` R29). -/
abbrev Delivered (r : Response) (s t : State) : Prop :=
  t.port = { s.port with busy := false, respValid := true, resp := r }

/-- The operation that waited ends with this response, and the wait with it (`43_ds18b20.md` R166). -/
abbrev AnswersWait (r : Response) (s t : State) : Prop :=
  t.port = { s.port with busy := false, respValid := true, resp := r, waitReq := false, suspended := none }

/-- What no operation but a search writes: the SearchState and its draws; and what no operation writes: the host's
side and the parameters (`10_state.md` R25, R32). -/
abbrev Kept (s t : State) : Prop :=
  t.search = s.search ∧ t.draws = s.draws ∧ t.host = s.host ∧ t.params = s.params

/-- `i` runs whole from `s`: it answers `t` with response `r` after these pin events and slots, the line
released and no critical section open, and leaves the SearchState, the host's side and the parameters alone. -/
abbrev Completes (i : Instr) (s t : State) (r : Response) (events : List Event) (slots : List Slot) : Prop :=
  exec i s = .next t ∧ Delivered r s t ∧ t.pin = ⟨.released, false, events, slots⟩ ∧ Kept s t

/-- `i` ends from `s` in the error `e`, after these pin events and complete slots, with the line as given, no
critical section open, and the SearchState, the host's side and the parameters as they were. -/
abbrev Fails (i : Instr) (s t : State) (e : Err) (drive : Drive) (events : List Event) (slots : List Slot) : Prop :=
  exec i s = .next t ∧ Delivered (.ofErr s.params e) s t ∧ t.pin = ⟨drive, false, events, slots⟩ ∧ Kept s t

/-- The environment's answers were consumed in order, and the operation ended in `Pin` exactly if the last of them was a
fault and none before it (`60_exceptions.md` R182, R190). An operation may also be left waiting. -/
abbrev PinFaultPrecise (s t : State) : Prop :=
  ∃ n, t.env.asked = s.env.asked + n ∧ t.env.script = s.env.script.drop n ∧
    ((s.env.Unfaulted n ∧ (t.port.busy = true ∧ t.port.suspended.isSome = true ∨
        t.port.busy = false ∧ t.port.resp.status ≠ .pin)) ∨
      ∃ e, 0 < n ∧ s.env.Unfaulted (n - 1) ∧ s.env.faultAt (n - 1) = some e ∧ t.port.busy = false ∧
        t.port.resp = ⟨.pin, s.params.pinErr.code e, 0, 0⟩)

/-- The pin events of these slots in order. -/
abbrev slotEvents (s : State) (slots : List Slot) : List Event := slots.flatMap (Slot.events s.params.timing)

/-- `i` ends from `s` without any pin primitive: it answers `t` with response `r`, an empty trace, and the pin,
the environment, the host's side and the parameters as they were. -/
abbrev EndsSilently (i : Instr) (s t : State) (r : Response) : Prop :=
  exec i s = .next t ∧ Delivered r s t ∧ t.pin = { s.pin with trace := [], slots := [] } ∧ t.env = s.env ∧
    t.host = s.host ∧ t.params = s.params

/-- The scratchpad bytes of every device are the same in both memories, except those `except` names, and except
bytes 0, 1 and 8 of a device with a conversion in progress, which its end may write (`20_memory.md` R66). -/
def BytesKept (m m' : Memory) (except : Address → Fin 9 → Prop) : Prop :=
  ∀ a k d, Memory.find m a = some d → ¬ except a k → (d.converting = none ∨ (k ≠ 0 ∧ k ≠ 1 ∧ k ≠ 8)) →
    Memory.readByte m' a k = Memory.readByte m a k

/-- The operation starts with a reset slot, from this state (`60_exceptions.md` R181): RESET, SEND_COMMAND, a SEARCH
that is not the exhausted call, START_MEASUREMENT, and a keyed operation whose Address passes the family check. -/
def startsWithReset (c : SearchState) : Instr → Bool
  | .reset | .sendCommandSkip _ | .sendCommandMatch _ _ | .startMeasurementSkip => true
  | .search => !c.lastDeviceFlag
  | .readScratchpad a | .writeScratchpad a _ _ _ | .getResolution a | .setResolution a _
  | .startMeasurementMatch a | .readTemp a _ | .measure a _ => byteAt a 0 == Config.familyCode
  | .writeBit _ | .readBit | .writeByte _ | .readByte | .searchReset | .crcCheckAddr _ => false
  | .cmdMatchRom _ | .cmdSkipRom | .cmdSearchRom | .cmdConvertT | .cmdReadScratchpad | .cmdWriteScratchpad _ _ _
  | .cmdCopyScratchpad | .cmdRecallE2 => false

/-- The same devices are attached, each waits for a ROM command, as after a reset pulse, and no scratchpad byte has
changed, but by the end of a conversion (`70_reset_and_hazards.md` R224, `20_memory.md` R66). -/
abbrev AllReset (m m' : Memory) : Prop :=
  m'.map Device.rom = m.map Device.rom ∧ (∀ d' ∈ m', d'.mode = .romCommand 0 0) ∧ BytesKept m m' (fun _ _ => False)

/-- Operations that store nothing in any device: none of their slots reaches a device that receives a scratchpad.
The raw writes and the wire pieces are not among them, because what they store depends on what was sent before. -/
def storesNothing : Instr → Bool
  | .reset | .readBit | .readByte | .sendCommandSkip _ | .sendCommandMatch _ _ | .search | .searchReset
  | .crcCheckAddr _ | .readScratchpad _ | .getResolution _ | .startMeasurementSkip | .startMeasurementMatch _
  | .readTemp _ _ => true
  | .writeBit _ | .writeByte _ | .writeScratchpad _ _ _ _ | .setResolution _ _ | .measure _ _ => false
  | .cmdMatchRom _ | .cmdSkipRom | .cmdSearchRom | .cmdConvertT | .cmdReadScratchpad | .cmdWriteScratchpad _ _ _
  | .cmdCopyScratchpad | .cmdRecallE2 => false

/-- The mode in which a reference device expects a wire piece (`30_encoding.md` R80, R81, `20_memory.md` R66). -/
def pieceMode : Instr → Option Mode
  | .cmdMatchRom _ | .cmdSkipRom | .cmdSearchRom => some (.romCommand 0 0)
  | .cmdConvertT | .cmdReadScratchpad | .cmdWriteScratchpad _ _ _ | .cmdCopyScratchpad | .cmdRecallE2 =>
    some (.function 0 0)
  | .reset | .writeBit _ | .readBit | .writeByte _ | .readByte | .sendCommandSkip _ | .sendCommandMatch _ _ | .search
  | .searchReset | .crcCheckAddr _ | .readScratchpad _ | .writeScratchpad _ _ _ _ | .getResolution _
  | .setResolution _ _ | .startMeasurementSkip | .startMeasurementMatch _ | .readTemp _ _ | .measure _ _ => none

/-- The keyed driver operations of the device at `a` (`43_ds18b20.md` R150, R151). -/
inductive Keyed (a : Address) : Instr → Prop where
  | readScratchpad : Keyed a (.readScratchpad a)
  | writeScratchpad (th tl cfg : Byte) : Keyed a (.writeScratchpad a th tl cfg)
  | getResolution : Keyed a (.getResolution a)
  | setResolution (r : Resolution) : Keyed a (.setResolution a r)
  | startMeasurement : Keyed a (.startMeasurementMatch a)
  | readTemp (r : Resolution) : Keyed a (.readTemp a r)
  | measure (r : Resolution) : Keyed a (.measure a r)

/-! ## Slots cut short by a pin fault (`60_exceptions.md` R190) -/

/-- The events of a write slot of bit `b` whose primitive `j` faults: `PinLow` (0) or `PinRelease` (1). -/
def writeCut (t : Timing) (b : Bool) (j : Fin 2) : List Event :=
  if j = 0 then [.critEnter, .critExit] else [.critEnter, .low, .delay (if b then t.tW1l else t.tW0l), .critExit]

/-- The events of a read slot whose primitive `j` faults: `PinLow` (0), `PinRelease` (1) or `PinSample` (2). -/
def readCut (t : Timing) (j : Fin 3) : List Event :=
  if j = 0 then [.critEnter, .critExit]
  else if j = 1 then [.critEnter, .low, .delay t.tRdl, .critExit]
  else [.critEnter, .low, .delay t.tRdl, .release, .delay t.tRds, .critExit]

/-- The drive latch after primitive `j` of a slot faults, `d` having been its value before the slot. -/
def cutDrive (d : Drive) (j : Nat) : Drive := if j = 0 then d else if j = 1 then .low else .released

/-! ## Transactions (`30_encoding.md` R86) -/

/-- The slots of READ_SCRATCHPAD of the device at `a`, the nine bytes read being `bytes`. -/
abbrev readSlots (a : Address) (bytes : List Byte) : List Slot :=
  .reset true :: (matchSlots a ++ w8 Config.cmdReadScratchpad ++ bytes.flatMap r8)

/-- The slots of WRITE_SCRATCHPAD of the device at `a`. -/
abbrev writeSlots (a : Address) (th tl cfg : Byte) : List Slot :=
  .reset true :: (matchSlots a ++ w8 Config.cmdWriteScratchpad ++ (w8 th ++ w8 tl ++ w8 cfg))

/-- The bytes read from `base` primitives from now on are those the environment's coming answers make: bit `k` of
byte `j` is the sample of read slot `8j + k`. For environments without reference devices. -/
abbrev BytesSampled (e : Env) (base : Nat) (bytes : List Byte) : Prop :=
  ∀ j k, j < bytes.length → k < 8 →
    (bytes.getD j 0).getLsbD k = (e.levelAt (base + 3 * (8 * j + k) + 2) .released .read).toBool

/-! ## A search pass -/

/-- The two probe bits at position `k + 1` of a pass whose first triplet begins `base` primitives from now, in an
environment without reference devices. -/
def Env.probe (e : Env) (base k : Nat) : Bool × Bool :=
  ((e.levelAt (base + 8 * k + 2) .released .read).toBool, (e.levelAt (base + 8 * k + 5) .released .read).toBool)

/-- The direction at position `k + 1` for these probe bits, from the cursor `c` before the pass
(`41_rom_search.md` R122): the bit the devices agree on, or at a branch point the one `last_discrepancy` chooses. -/
def chosenDir (c : SearchState) (probe : Nat → Bool × Bool) (k : Nat) : Bool :=
  match probe k with
  | (true, _) => true
  | (false, true) => false
  | (false, false) =>
    if k + 1 < c.lastDiscrepancy.toNat then c.romNo.getLsbD k else k + 1 == c.lastDiscrepancy.toNat

/-- The last of the first `n` positions that is a branch point taken toward 0, or 0 (`last_zero`, R122). -/
def lastZeroOf (c : SearchState) (probe : Nat → Bool × Bool) (n : Nat) : Nat :=
  (((List.range n).filter fun k => probe k = (false, false) && !chosenDir c probe k).getLast?.map (· + 1)).getD 0

/-- The first `n` triplets of a pass (`30_encoding.md` R86). -/
def tripletSlots (c : SearchState) (probe : Nat → Bool × Bool) (n : Nat) : List Slot :=
  (List.range n).flatMap fun k => [.read (probe k).1, .read (probe k).2, .write (chosenDir c probe k)]

/-- The cursor after a complete pass (R122, R123): `rom_no` holds the directions, `last_discrepancy` the last zero
branch, `last_family_discrepancy` the last one of the first eight positions if there is one. -/
abbrev PassCursor (c : SearchState) (probe : Nat → Bool × Bool) (c' : SearchState) : Prop :=
  (∀ k, k < 64 → c'.romNo.getLsbD k = chosenDir c probe k) ∧
  c'.lastDiscrepancy.toNat = lastZeroOf c probe 64 ∧
  c'.lastFamilyDiscrepancy.toNat =
    (if lastZeroOf c probe 8 = 0 then c.lastFamilyDiscrepancy.toNat else lastZeroOf c probe 8) ∧
  c'.lastDeviceFlag = (lastZeroOf c probe 64 == 0 || c.lastDeviceFlag)

/-- The response of a complete pass that ends at the cursor `c` (R123, R127). -/
def passResponse (p : Params) (c : SearchState) : Response :=
  if p.searchCrcCheck && !crcOk (addressBytes c.romNo) then .ofErr p .crcMismatch else .ofSearch (some c.romNo)

/-- `n` SEARCH operations in a row: their responses, and the state after the last. -/
def searchRun : Nat → State → List Response × State
  | 0, s => ([], s)
  | n + 1, s =>
    match exec .search s with
    | .next t => (t.port.resp :: (searchRun n t).1, (searchRun n t).2)
    | .fault _ | .refused _ => ([], s)

/-- Ascending order of the transmission-order bit strings: at the lowest bit where they differ, `a` has 0
(`41_rom_search.md` R129). -/
def TransmittedBefore (a b : Address) : Prop :=
  ∃ i, i < 64 ∧ a.getLsbD i = false ∧ b.getLsbD i = true ∧ ∀ j, j < i → a.getLsbD j = b.getLsbD j

/-! ## The invariant -/

/-- No conversion is past its bound: it has ended when `CONV_MS` of the resolution it was started under has passed
(`20_memory.md` R66, `70_reset_and_hazards.md` R222). -/
def Env.Bounded (e : Env) : Prop :=
  ∀ m d c due, e.remote = some m → d ∈ m → d.converting = some c → c.due = some due → e.elapsedUs < due

/-- The search registers hold values of their ranges (`10_state.md` R20, R23, R24, `70_reset_and_hazards.md`
R233). -/
abbrev SearchState.InRange (c : SearchState) : Prop :=
  c.lastDiscrepancy.toNat ≤ 64 ∧ c.lastFamilyDiscrepancy.toNat ≤ 8

/-- What holds between two steps: the search registers are in range; `crit` is 0 (`60_exceptions.md` R190 (1));
the engine is busy only while a wait is pending, with `wait_req` 1 and the line released (`43_ds18b20.md` R166);
the remote memory is canonical (`20_memory.md` R50); no conversion is past its bound (R66). -/
structure State.Inv (s : State) : Prop where
  inRange  : s.search.InRange
  crit     : s.pin.crit = false
  busy     : s.port.busy = s.port.suspended.isSome
  waitReq  : s.port.waitReq = s.port.suspended.isSome
  released : s.port.suspended.isSome = true → s.pin.drive = .released
  memory   : ∀ m, s.env.remote = some m → Memory.wf m
  bounded  : s.env.Bounded

end Sys2Proof.Machine
end

