-- ==== Sys2Proof/Certificates/Slice0/Obligations.lean ====
section
/-! DEFINITION. The statements about the machine, one `Obligations.<Name> : Prop` each, in the order of
`OBLIGATIONS.json`. A docstring names the rule a statement formalises, or the log entry it rests on. -/

open Sys2Proof Sys2Proof.Machine

/-! ## Encoding -/

/-- Encoding an operation gives a well-formed word, and decoding it gives the operation back, with every operand
(`30_encoding.md` R71, R73; wire pieces: log 3, log 4). -/
def Obligations.DecodeEncodeRoundTrip : Prop :=
  ∀ i : Instr, (encode i).wellFormed = true ∧ decode (encode i) = .ok i

/-- A word that decodes is the word of the operation it decodes to: no two words name one operation. For request words
this is `30_encoding.md` R71 and R73; for wire pieces it is the model's choice, by the packing into 72 bits (log 4) and
the refusal of trailing bits (log 20). -/
def Obligations.DecodedWordIsItsEncoding : Prop :=
  ∀ (c : Code) (i : Instr), decode c = .ok i → encode i = c

/-- The decoder accepts exactly the words some row of the opcode table admits. For request words the decoder is the
procedure of `30_encoding.md` R73; which wire pieces are accepted and which refused is the model's choice (log 4,
log 20). -/
def Obligations.DecoderAcceptsExactlyTheTable : Prop :=
  ∀ c : Code, (∃ i, decode c = .ok i) ↔ c.wellFormed = true

/-- No word is of two rows of the opcode table (`30_encoding.md` R71, R72, R80, R81). -/
def Obligations.TableRowsAreDisjoint : Prop :=
  (∀ (w : RequestWord) (r r' : RequestRow), r ∈ requestRows → r' ∈ requestRows → r.admits w = true →
    r'.admits w = true → r = r') ∧
  (∀ (w : WireWord) (r r' : WireRow), r ∈ wireRows → r' ∈ wireRows → r.admits w = true → r'.admits w = true → r = r')

/-- Request words written out in `95_test_vectors.md` decode to what stands beside them there. The last two clauses are
the model's choice: that a wire command byte is an operation (log 3), and the packing of a wire piece, of which
`0x5F464B4E` is one, its bytes being those of `30_encoding.md` R81 (log 4). -/
def Obligations.SpecWordsDecode : Prop :=
  decode (.request 0x00000000000000000000000000010002) = .ok (.writeBit true) ∧
  decode (.request 0x00000000000000000000000000CC0004) = .ok (.writeByte 0xCC) ∧
  decode (.request 0x1E000000000000280000000000BE0110) = .ok (.sendCommandMatch 0x1E00000000000028 0xBE) ∧
  decode (.request 0x1E000000000000280000005F464B0132) =
    .ok (.writeScratchpad 0x1E00000000000028 0x4B 0x46 0x5F) ∧
  decode (.request 0x1E000000000000280000000000020134) = .ok (.setResolution 0x1E00000000000028 .bits11) ∧
  decode (.request 0x29000000000001280000000000030137) = .ok (.measure 0x2900000000000128 .bits12) ∧
  decode (.wire 0x44) = .ok .cmdConvertT ∧
  decode (.wire 0x5F464B4E) = .ok (.cmdWriteScratchpad 0x4B 0x46 0x5F)

/-- A request word of no row of the opcode table is answered `ILLEGAL` with no pin primitive and no state change
(`30_encoding.md` R76, `60_exceptions.md` R186). -/
def Obligations.IllegalRequestChangesNothing : Prop :=
  ∀ (s : State) (w : RequestWord) (rest : List HostInput),
    s.host.rst = false → s.port.busy = false → s.host.inputs = .code (.request w) :: rest →
    (∀ r ∈ requestRows, r.admits w = false) →
    ∃ t, step s = .next t ∧ Delivered ⟨.illegal, 0, 0, 0⟩ s t ∧ t.port.resp.toWord = 0xFF ∧
      t.pin = { s.pin with trace := [], slots := [] } ∧ t.search = s.search ∧ t.draws = s.draws ∧ t.env = s.env ∧
      t.params = s.params ∧ t.host = { s.host with inputs := rest }

/-! ## The step -/

/-- An idle engine that the host presents a code takes it, and the step is the meaning of the operation the code
decodes to (`10_state.md` R29, R30; log 2). -/
def Obligations.StepRunsTheDecodedOperation : Prop :=
  ∀ (s : State) (c : Code) (rest : List HostInput) (i : Instr),
    s.host.rst = false → s.port.busy = false → s.host.inputs = .code c :: rest → decode c = .ok i →
    step s = exec i { s with host := { s.host with inputs := rest } }

/-- An idle engine with no request waits. When the host lets `ms` milliseconds pass, the engine is as it was, the time is
added to what has passed, and every conversion whose bound has passed by then has ended with the next temperature the
state fixes (`10_state.md` R37, `70_reset_and_hazards.md` R222, `20_memory.md` R66; the pause is the model's input:
log 19; the temperatures: log 27). -/
def Obligations.IdleEngineWaits : Prop :=
  ∀ s : State, s.host.rst = false → s.port.busy = false →
    (s.host.inputs = [] → step s = .next s) ∧
    (∀ ms rest, s.host.inputs = .pause ms :: rest →
      ∃ t, step s = .next t ∧ t.search = s.search ∧ t.pin = s.pin ∧ t.port = s.port ∧
        t.host = { s.host with inputs := rest } ∧ t.params = s.params ∧ t.draws = s.draws ∧
        t.env.script = s.env.script ∧ t.env.asked = s.env.asked ∧ t.env.elapsedUs = s.env.elapsedUs + 1000 * ms ∧
        ∀ m, s.env.remote = some m → ∃ m', t.env.remote = some m' ∧ BytesKept m m' (fun _ _ => False) ∧
          ∀ a d c due, Memory.find m a = some d → d.converting = some c → c.due = some due →
            due ≤ s.env.elapsedUs + 1000 * ms → ∃ d', Memory.find m' a = some d' ∧ d'.converting = none ∧
              d'.temps = d.temps.tail ∧
              ∀ raw rest', d.temps = raw :: rest' → rawTemp (byteAt d'.sp 0) (byteAt d'.sp 1) = raw)

/-- While a MEASURE waits, a request presented is held by the host; nothing happens until the host reports the wait
done, and then the operation ends with its response (`10_state.md` R29, `93_implementation_defined.md` U9, U10;
log 14). -/
def Obligations.BusyEngineHoldsRequests : Prop :=
  ∀ (s : State) (w : Suspended), s.host.rst = false → s.port.busy = true → s.port.suspended = some w →
    (s.host.waitDone = false → step s = .next s) ∧
    (s.host.waitDone = true → ∃ t, step s = .next t ∧ t.host = s.host ∧ t.port.busy = false ∧
      t.port.respValid = true ∧ t.port.waitReq = false ∧ t.port.suspended = none)

/-- The invariant holds after reset. -/
def Obligations.InvariantAtReset : Prop := State.reset.Inv

/-- Every step from every state that has the invariant keeps it: the search registers stay in range (`10_state.md`
R20, `70_reset_and_hazards.md` R233), `crit` is 0 between steps (`60_exceptions.md` R190 (1)), the engine is busy
only in a wait, the line then released (`43_ds18b20.md` R166), the remote memory stays canonical, and no conversion
is past its bound (`20_memory.md` R66; that the time that has passed is counted: log 9). -/
def Obligations.StepKeepsInvariant : Prop :=
  ∀ s t : State, s.Inv → step s = .next t → t.Inv

/-- The reset values (`70_reset_and_hazards.md` R211), and the twelve timing figures (`00_scope.md` R9). -/
def Obligations.ResetValues : Prop :=
  (State.reset.search = ⟨0, 0, 0, false⟩ ∧ State.reset.pin.drive = .released ∧ State.reset.port.busy = false ∧
    State.reset.pin.crit = false ∧ State.reset.port.waitReq = false ∧ State.reset.port.respValid = false) ∧
  State.reset.params.timing =
    { tPoll := 2, nPoll := 125, tRstl := 480, tPds := 70, tRstr := 410, tW1l := 10, tW1r := 55, tW0l := 65,
      tW0r := 5, tRdl := 1, tRds := 1, tRdr := 53 }

/-- The reset input: from any state, an operation in flight too, the engine takes the reset values and is ready; the
devices, the host's requests and the parameters are left alone (`70_reset_and_hazards.md` R210; that `rst` lasts one
step: log 18). -/
def Obligations.ResetInput : Prop :=
  ∀ s : State, s.host.rst = true →
    ∃ t, step s = .next t ∧ t.search = ⟨0, 0, 0, false⟩ ∧ t.pin.drive = .released ∧ t.pin.crit = false ∧
      t.port.busy = false ∧ t.port.respValid = false ∧ t.port.waitReq = false ∧ t.port.suspended = none ∧
      t.env = s.env ∧ t.params = s.params ∧ t.draws = s.draws ∧ t.host = { s.host with rst := false }

/-- MEASURE from its wait on, in any environment: the step in which the wait is answered goes on with READ_TEMP. On a
line that becomes idle with a device present it makes the second transaction, and answers `CrcMismatch` if the nine bytes
fail the check, else their temperature; a line low at all samples is `BusNotHigh`, and no device present is
`UnexpectedResponse` after the one slot (`43_ds18b20.md` R166, R164, `60_exceptions.md` R181, R183; how the wait is
represented, and that `wait_ms` keeps its figure: log 14, log 29). -/
def Obligations.MeasureReadsAfterTheWait : Prop :=
  ∀ (s : State) (w : Suspended), s.host.rst = false → s.port.busy = true → s.port.suspended = some w →
    s.host.waitDone = true → s.pin.crit = false → byteAt w.addr 0 = 0x28 →
    (∀ p, LineReady s p 380 → ∃ (sp : Scratchpad) (t : State), step s = .next t ∧ Kept s t ∧
      (s.env.remote = none → BytesSampled s.env (p + 164) (bytesOf 9 sp)) ∧
      AnswersWait
        (if crc8 (bytesOf 8 sp) = byteAt sp 8 then
          ⟨.ok, 0, decodeTemp s.params [byteAt sp 0, byteAt sp 1] w.res, 0⟩
        else ⟨.crcMismatch, 0, 0, 0⟩) s t ∧
      t.pin = ⟨.released, false,
        s.pin.trace ++ (pollEvents s.params.timing p ++ slotEvents s (readSlots w.addr (bytesOf 9 sp))),
        s.pin.slots ++ readSlots w.addr (bytesOf 9 sp)⟩) ∧
    ((∀ k, k < s.params.timing.nPoll → s.env.levelAt k s.pin.drive .poll = .low) →
      s.env.Unfaulted s.params.timing.nPoll → ∃ t, step s = .next t ∧ Kept s t ∧
        AnswersWait ⟨.busNotHigh, 0, 0, 0⟩ s t ∧
        t.pin = ⟨s.pin.drive, false,
          s.pin.trace ++ (List.replicate s.params.timing.nPoll [.sample .low, .delay s.params.timing.tPoll]).flatten,
          s.pin.slots⟩) ∧
    (∀ p, LineIdle s p → s.env.levelAt (p + 3) .released .presence = .high → s.env.Unfaulted (p + 4) →
      ∃ t, step s = .next t ∧ Kept s t ∧ AnswersWait ⟨.unexpectedResponse, 0, 0, 0⟩ s t ∧
        t.pin = ⟨.released, false,
          s.pin.trace ++ (pollEvents s.params.timing p ++ slotEvents s [.reset false]),
          s.pin.slots ++ [.reset false]⟩)

/-- Every step answers a next state; and every operation, if the host answers `HostWait`, ends with a response, no
critical section open, of a status that the engine can raise, and with no data when it is an error
(`60_exceptions.md` R187, R190, R193, R199, `30_encoding.md` R75). -/
def Obligations.EveryOperationResponds : Prop :=
  (∀ s : State, ∃ t, step s = .next t) ∧
  (∀ (i : Instr) (s : State), s.host.waitDone = true → s.pin.crit = false →
    ∃ t, exec i s = .next t ∧ t.port.busy = false ∧ t.port.respValid = true ∧ t.pin.crit = false ∧
      t.port.resp.status ≠ .timeout ∧ t.port.resp.status ≠ .illegal ∧
      (t.port.resp.status ≠ .ok →
        t.port.resp.temp = 0 ∧ t.port.resp.data = 0 ∧ (t.port.resp.status ≠ .pin → t.port.resp.aux = 0)))

/-- The line stays released over every operation that does not end in a pin fault (`10_state.md` R28,
`40_signaling.md` R105). -/
def Obligations.LineReleasedUnlessPinFault : Prop :=
  ∀ (i : Instr) (s t : State), s.pin.drive = .released → exec i s = .next t →
    (t.port.busy = true ∨ t.port.resp.status ≠ .pin) → t.pin.drive = .released

/-- Pin faults are precise: every operation, MEASURE too, consumes the environment's answers in order; if none of them is
a fault it does not end in `Pin`, and the first one that is ends it at once with `Pin` and its code, before a wait as
after it: the same holds of the step that ends a wait (`60_exceptions.md` R182, R189, R190; the environment's answers:
log 6; the codes: log 10). -/
def Obligations.PinFaultsArePrecise : Prop :=
  (∀ (i : Instr) (s t : State), exec i s = .next t → PinFaultPrecise s t) ∧
  (∀ (s t : State) (w : Suspended), s.host.rst = false → s.port.busy = true → s.port.suspended = some w →
    s.host.waitDone = true → step s = .next t → PinFaultPrecise s t ∧ t.port.busy = false)

/-- The response word: each field in its bits (`30_encoding.md` R75), and the status codes (`60_exceptions.md`
R180). -/
def Obligations.ResponseWordFields : Prop :=
  (∀ r : Response, r.toWord.extractLsb' 0 8 = r.status.code ∧ r.toWord.extractLsb' 8 8 = r.aux ∧
    r.toWord.extractLsb' 16 16 = BitVec.ofInt 16 r.temp ∧ r.toWord.extractLsb' 32 72 = r.data ∧
    r.toWord.extractLsb' 104 24 = 0) ∧
  Status.code .ok = 0x00 ∧ Status.code .busNotHigh = 0x01 ∧ Status.code .pin = 0x02 ∧
  Status.code .unexpectedResponse = 0x03 ∧ Status.code .familyCodeMismatch = 0x04 ∧
  Status.code .crcMismatch = 0x05 ∧ Status.code .timeout = 0x06 ∧ Status.code .illegal = 0xFF

/-! ## Signaling -/

/-- RESET, whatever the environment answers (`40_signaling.md` R100). With `p` `Low` samples before the first `High`:
the pulse is sent, and the presence sample decides between Ok and `UnexpectedResponse`, raised after the slot is
complete; a fault of a primitive of the pulse ends it there. A line that is low at all `N_POLL` samples is
`BusNotHigh` with no pulse; a fault of a poll sample ends the poll. -/
def Obligations.ResetSlot : Prop :=
  ∀ (s : State) (p : Nat), s.pin.crit = false →
    (LineIdle s p →
      (s.env.Unfaulted (p + 4) → s.env.levelAt (p + 3) .released .presence = .low → ∃ t,
        Completes .reset s t ⟨.ok, 0, 0, 0⟩
          (pollEvents s.params.timing p ++ [.low, .delay s.params.timing.tRstl, .release,
            .delay s.params.timing.tPds, .sample .low, .delay s.params.timing.tRstr]) [.reset true]) ∧
      (s.env.Unfaulted (p + 4) → s.env.levelAt (p + 3) .released .presence = .high → ∃ t,
        Fails .reset s t .unexpectedResponse .released
          (pollEvents s.params.timing p ++ [.low, .delay s.params.timing.tRstl, .release,
            .delay s.params.timing.tPds, .sample .high, .delay s.params.timing.tRstr]) [.reset false]) ∧
      (∀ e, s.env.Unfaulted (p + 1) → s.env.faultAt (p + 1) = some e → ∃ t,
        Fails .reset s t (.pin e) s.pin.drive (pollEvents s.params.timing p) []) ∧
      (∀ e, s.env.Unfaulted (p + 2) → s.env.faultAt (p + 2) = some e → ∃ t,
        Fails .reset s t (.pin e) .low
          (pollEvents s.params.timing p ++ [.low, .delay s.params.timing.tRstl]) []) ∧
      (∀ e, s.env.Unfaulted (p + 3) → s.env.faultAt (p + 3) = some e → ∃ t,
        Fails .reset s t (.pin e) .released
          (pollEvents s.params.timing p ++ [.low, .delay s.params.timing.tRstl, .release,
            .delay s.params.timing.tPds]) [])) ∧
    ((∀ k, k < s.params.timing.nPoll → s.env.levelAt k s.pin.drive .poll = .low) →
      s.env.Unfaulted s.params.timing.nPoll → ∃ t,
        Fails .reset s t .busNotHigh s.pin.drive
          (List.replicate s.params.timing.nPoll [.sample .low, .delay s.params.timing.tPoll]).flatten []) ∧
    (∀ e, p < s.params.timing.nPoll → (∀ k, k < p → s.env.levelAt k s.pin.drive .poll = .low) →
      s.env.Unfaulted p → s.env.faultAt p = some e → ∃ t,
        Fails .reset s t (.pin e) s.pin.drive
          (List.replicate p [.sample .low, .delay s.params.timing.tPoll]).flatten [])

/-- WRITE_BIT, whatever the environment answers (`40_signaling.md` R101). -/
def Obligations.WriteBitSlot : Prop :=
  ∀ (s : State) (b : Bool),
    (s.env.Unfaulted 2 → ∃ t,
      Completes (.writeBit b) s t ⟨.ok, 0, 0, 0⟩
        [.critEnter, .low, .delay (if b then s.params.timing.tW1l else s.params.timing.tW0l), .release, .critExit,
          .delay (if b then s.params.timing.tW1r else s.params.timing.tW0r)] [.write b]) ∧
    (∀ e, s.env.faultAt 0 = some e → ∃ t,
      Fails (.writeBit b) s t (.pin e) s.pin.drive [.critEnter, .critExit] []) ∧
    (∀ e, s.env.faultAt 0 = none → s.env.faultAt 1 = some e → ∃ t,
      Fails (.writeBit b) s t (.pin e) .low
        [.critEnter, .low, .delay (if b then s.params.timing.tW1l else s.params.timing.tW0l), .critExit] [])

/-- READ_BIT, whatever the environment answers (`40_signaling.md` R102): the slot, the bit, which is 1 when the one
sample, taken with the line released, is `High`, and the three pin faults. The last clause of the first part, which level
is sampled, is the model's choice where reference devices answer: the devices as the two delays before the sample leave
them, in which a conversion may end (`20_memory.md` R66; log 9), unless the slot ends a low time that is a reset pulse to
them (`70_reset_and_hazards.md` R224; log 8). -/
def Obligations.ReadBitSlot : Prop :=
  ∀ s : State,
    (s.env.Unfaulted 3 → ∃ (l : Level) (t : State),
      Completes .readBit s t ⟨.ok, if l = .high then 1 else 0, 0, 0⟩
        [.critEnter, .low, .delay s.params.timing.tRdl, .release, .delay s.params.timing.tRds, .sample l, .critExit,
          .delay s.params.timing.tRdr]
        [.read (l == .high)] ∧
      (NoPulse s s.params.timing.tRdl ∨ s.env.remote = none →
        l = ((s.env.pass .low s.params.timing.tRdl).pass .released s.params.timing.tRds).levelAt 2 .released .read)) ∧
    (∀ e, s.env.faultAt 0 = some e → ∃ t,
      Fails .readBit s t (.pin e) s.pin.drive [.critEnter, .critExit] []) ∧
    (∀ e, s.env.faultAt 0 = none → s.env.faultAt 1 = some e → ∃ t,
      Fails .readBit s t (.pin e) .low [.critEnter, .low, .delay s.params.timing.tRdl, .critExit] []) ∧
    (∀ e, s.env.Unfaulted 2 → s.env.faultAt 2 = some e → ∃ t,
      Fails .readBit s t (.pin e) .released
        [.critEnter, .low, .delay s.params.timing.tRdl, .release, .delay s.params.timing.tRds, .critExit] [])

/-- WRITE_BYTE (`40_signaling.md` R103): write slots for the bits, bit 0 first; 520 + 5 µs per 0 bit with the
document's figures; and a pin fault in slot `k` leaves the `k` slots before it sent and the others not sent. -/
def Obligations.WriteByteSlots : Prop :=
  ∀ (s : State) (v : Byte),
    (s.env.Unfaulted 16 → ∃ t,
      Completes (.writeByte v) s t ⟨.ok, 0, 0, 0⟩ (slotEvents s t.pin.slots) t.pin.slots ∧
        t.pin.slots = (List.range 8).map (fun k => .write (v.getLsbD k)) ∧
        (s.params.timing = Timing.documented → nominalUs t.pin.trace = 520 + 5 * zeroBits v)) ∧
    (∀ (k : Nat) (j : Fin 2) (e : PinErr), k < 8 → s.env.Unfaulted (2 * k + j) →
      s.env.faultAt (2 * k + j) = some e → ∃ t,
        Fails (.writeByte v) s t (.pin e) (cutDrive (if k = 0 then s.pin.drive else .released) j)
          (slotEvents s t.pin.slots ++ writeCut s.params.timing (v.getLsbD k) j) t.pin.slots ∧
        t.pin.slots = (List.range k).map (fun k => .write (v.getLsbD k)))

/-- READ_BYTE (`40_signaling.md` R104): read slots for the bits, bit 0 first, delivered in `aux`; and a pin fault in
slot `k` discards the bits read before it. Which sample a bit is, is said where no reference devices answer. -/
def Obligations.ReadByteSlots : Prop :=
  ∀ s : State,
    (s.env.Unfaulted 24 → ∃ v t,
      Completes .readByte s t ⟨.ok, v, 0, 0⟩ (slotEvents s t.pin.slots) t.pin.slots ∧
        t.pin.slots = (List.range 8).map (fun k => .read (v.getLsbD k)) ∧
        (s.env.remote = none → BytesSampled s.env 0 [v]) ∧
        (s.params.timing = Timing.documented → nominalUs t.pin.trace = 440)) ∧
    (∀ (k : Nat) (j : Fin 3) (e : PinErr), k < 8 → s.env.Unfaulted (3 * k + j) →
      s.env.faultAt (3 * k + j) = some e → ∃ t,
        Fails .readByte s t (.pin e) (cutDrive (if k = 0 then s.pin.drive else .released) j)
          (slotEvents s t.pin.slots ++ readCut s.params.timing j) t.pin.slots ∧
        t.pin.slots.length = k ∧ ∀ x ∈ t.pin.slots, ∃ b, x = .read b)

/-- A line the engine holds low (`70_reset_and_hazards.md` R224). A RESET whose release faults leaves it low, and its
pulse, 480 µs or longer, is a reset pulse to the devices. On a line already held low, RESET samples `Low` and reports
`BusNotHigh` with no pulse, and any write slot that is not faulted releases it. As soon as the line has been low for
480 µs, in the poll, in a pause or by the end of a slot, the devices have taken it for a reset pulse, and such a write
slot is no bit to them. The reference devices stand for a line that follows the drive latch: log 7, log 8. -/
def Obligations.StuckLineAndRecovery : Prop :=
  (∀ (s : State) (m : Memory) (p : Nat) (e : PinErr), s.env.remote = some m → s.pin.crit = false → LineIdle s p →
    s.env.Unfaulted (p + 2) → s.env.faultAt (p + 2) = some e → Config.resetPulseUs ≤ s.params.timing.tRstl →
    ∃ t m', Fails .reset s t (.pin e) .low (pollEvents s.params.timing p ++ [.low, .delay s.params.timing.tRstl]) [] ∧
      s.params.timing.tRstl ≤ t.env.lowUs ∧ t.env.remote = some m' ∧ AllReset m m') ∧
  (∀ (s : State) (m : Memory), s.env.script = [] → s.env.remote = some m → s.pin.drive = .low → s.pin.crit = false →
    (∃ t m', Fails .reset s t .busNotHigh .low
      (List.replicate s.params.timing.nPoll [.sample .low, .delay s.params.timing.tPoll]).flatten [] ∧
      t.env.lowUs = s.env.lowUs + s.params.timing.nPoll * s.params.timing.tPoll ∧ t.env.remote = some m' ∧
      (0 < s.params.timing.nPoll → Config.resetPulseUs ≤ t.env.lowUs → AllReset m m')) ∧
    (∀ b, ∃ t m', exec (.writeBit b) s = .next t ∧ Delivered ⟨.ok, 0, 0, 0⟩ s t ∧ t.pin.drive = .released ∧
      t.env.remote = some m' ∧ (¬ NoPulse s (writeLow s.params.timing b) → ∀ d' ∈ m', d'.mode = .romCommand 0 0)) ∧
    (∀ ms rest, s.host.rst = false → s.port.busy = false → s.host.inputs = .pause ms :: rest →
      Config.resetPulseUs ≤ s.env.lowUs + 1000 * ms →
      ∃ t m', step s = .next t ∧ t.pin = s.pin ∧ t.env.remote = some m' ∧ AllReset m m'))

/-- Every operation that starts with a reset slot reports `BusNotHigh`, with no pulse sent, when the line is low at
all `N_POLL` samples (`60_exceptions.md` R181), and `UnexpectedResponse`, after the one completed slot and nothing
written, when no device is present (R183 (a)). -/
def Obligations.TransactionNeedsLineAndPresence : Prop :=
  ∀ (i : Instr) (s : State), startsWithReset s.search i = true → s.pin.crit = false →
    ((∀ k, k < s.params.timing.nPoll → s.env.levelAt k s.pin.drive .poll = .low) →
      s.env.Unfaulted s.params.timing.nPoll → ∃ t,
        exec i s = .next t ∧ Delivered ⟨.busNotHigh, 0, 0, 0⟩ s t ∧
          t.pin = ⟨s.pin.drive, false,
            (List.replicate s.params.timing.nPoll [.sample .low, .delay s.params.timing.tPoll]).flatten, []⟩ ∧
          t.host = s.host ∧ t.params = s.params ∧ (i ≠ .search → t.search = s.search ∧ t.draws = s.draws)) ∧
    (∀ p, LineIdle s p → s.env.levelAt (p + 3) .released .presence = .high → s.env.Unfaulted (p + 4) → ∃ t,
        exec i s = .next t ∧ Delivered ⟨.unexpectedResponse, 0, 0, 0⟩ s t ∧
          t.pin = ⟨.released, false, pollEvents s.params.timing p ++ slotEvents s [.reset false], [.reset false]⟩ ∧
          t.host = s.host ∧ t.params = s.params ∧ (i ≠ .search → t.search = s.search ∧ t.draws = s.draws))

/-- Nominal durations: of each slot and of the poll (`40_signaling.md` R111), of a byte, of a command, of a
scratchpad transaction, and the 201 slots and 12 700 to 13 020 µs of a complete search pass (`41_rom_search.md`
R130, `70_reset_and_hazards.md` R231). -/
def Obligations.NominalDurations : Prop :=
  let us (slots : List Slot) : Nat := nominalUs (slots.flatMap (Slot.events Timing.documented))
  let match_ (a : Address) : Nat := 960 + 540 + ((addressBytes a).map fun v => 520 + 5 * zeroBits v).sum
  (∀ p, us [.reset p] = 960) ∧ us [.write true] = 65 ∧ us [.write false] = 70 ∧ (∀ b, us [.read b] = 55) ∧
  (∀ p, nominalUs (pollEvents Timing.documented p) = 2 * p) ∧
  (∀ v, us (w8 v) = 520 + 5 * zeroBits v) ∧ (∀ v, us (r8 v) = 440) ∧
  (∀ c, us (.reset true :: (w8 Config.cmdSkipRom ++ w8 c)) = 960 + 540 + 520 + 5 * zeroBits c) ∧
  (∀ a c, us (.reset true :: (matchSlots a ++ w8 c)) = match_ a + 520 + 5 * zeroBits c) ∧
  (∀ a bytes, bytes.length = 9 → us (readSlots a bytes) = match_ a + 530 + 9 * 440) ∧
  (∀ a th tl cfg, us (writeSlots a th tl cfg) =
    match_ a + 540 + (520 + 5 * zeroBits th) + (520 + 5 * zeroBits tl) + (520 + 5 * zeroBits cfg)) ∧
  (∀ (c : SearchState) (probe : Nat → Bool × Bool),
    (Slot.reset true :: (w8 Config.cmdSearchRom ++ tripletSlots c probe 64)).length = 201 ∧
    12700 ≤ us (.reset true :: (w8 Config.cmdSearchRom ++ tripletSlots c probe 64)) ∧
    us (.reset true :: (w8 Config.cmdSearchRom ++ tripletSlots c probe 64)) ≤ 13020)

/-! ## The ROM layer -/

/-- SEND_COMMAND in both forms, on a line that becomes idle with a device present: a reset slot, the selection (skip,
or match with the address byte 0 first), the command byte (`41_rom_search.md` R120). -/
def Obligations.SendCommandSlots : Prop :=
  ∀ (s : State) (p : Nat) (c : Byte),
    (LineReady s p 36 → ∃ t,
      Completes (.sendCommandSkip c) s t ⟨.ok, 0, 0, 0⟩ (pollEvents s.params.timing p ++ slotEvents s t.pin.slots)
        t.pin.slots ∧ t.pin.slots = .reset true :: (w8 0xCC ++ w8 c)) ∧
    (∀ a, LineReady s p 164 → ∃ t,
      Completes (.sendCommandMatch a c) s t ⟨.ok, 0, 0, 0⟩ (pollEvents s.params.timing p ++ slotEvents s t.pin.slots)
        t.pin.slots ∧
        t.pin.slots = .reset true :: (w8 0x55 ++ (List.range 8).flatMap (fun k => w8 (byteAt a k)) ++ w8 c))

/-- The exhausted call: no pin primitive, the cursor reset, not found (`41_rom_search.md` R124). -/
def Obligations.SearchExhausted : Prop :=
  ∀ s : State, s.search.lastDeviceFlag = true →
    ∃ t, EndsSilently .search s t ⟨.ok, 0, 0, 0⟩ ∧ t.search = ⟨0, 0, 0, false⟩ ∧ t.draws = s.draws

/-- SEARCH_RESET (`41_rom_search.md` R126). -/
def Obligations.SearchResetClears : Prop :=
  ∀ s : State,
    ∃ t, EndsSilently .searchReset s t ⟨.ok, 0, 0, 0⟩ ∧ t.search = ⟨0, 0, 0, false⟩ ∧ t.draws = s.draws

/-- A complete search pass, whatever probe bits the environment answers as long as some device responds at each
position: a reset slot, `0xF0`, 64 triplets with the directions of `41_rom_search.md` R122, the cursor of R122 and
R123, and the Address, or `CrcMismatch` with the cursor kept (R127). -/
def Obligations.SearchPassFollowsTheCursor : Prop :=
  ∀ (s : State) (p : Nat), s.env.remote = none → s.search.lastDeviceFlag = false → LineReady s p 532 →
    (∀ k, k < 64 → s.env.probe (p + 20) k ≠ (true, true)) →
    ∃ t, exec .search s = .next t ∧ PassCursor s.search (s.env.probe (p + 20)) t.search ∧
      Delivered (passResponse s.params t.search) s t ∧
      t.pin = ⟨.released, false, pollEvents s.params.timing p ++ slotEvents s t.pin.slots, t.pin.slots⟩ ∧
      t.pin.slots = .reset true :: (w8 0xF0 ++ tripletSlots s.search (s.env.probe (p + 20)) 64) ∧
      t.draws = s.draws ∧ t.host = s.host ∧ t.params = s.params

/-- No candidate: when both probe bits read 1 at a position, the pass is abandoned with no write slot after that
pair, the cursor is reset, and the result is not found (`41_rom_search.md` R125). -/
def Obligations.SearchNoCandidate : Prop :=
  ∀ (s : State) (p k : Nat), s.env.remote = none → s.search.lastDeviceFlag = false → k < 64 →
    LineReady s p (20 + 8 * k + 6) → (∀ j, j < k → s.env.probe (p + 20) j ≠ (true, true)) →
    s.env.probe (p + 20) k = (true, true) →
    ∃ t, exec .search s = .next t ∧ Delivered ⟨.ok, 0, 0, 0⟩ s t ∧ t.search = ⟨0, 0, 0, false⟩ ∧
      t.pin = ⟨.released, false, pollEvents s.params.timing p ++ slotEvents s t.pin.slots, t.pin.slots⟩ ∧
      t.pin.slots = .reset true ::
        (w8 0xF0 ++ tripletSlots s.search (s.env.probe (p + 20)) k ++ [.read true, .read true]) ∧
      t.draws = s.draws ∧ t.host = s.host ∧ t.params = s.params

/-- After `BusNotHigh`, `UnexpectedResponse` or `Pin` a search leaves the cursor drawn anew: its registers are the free
values of this draw, each within its range, the draw is counted, and nothing else of the engine is changed
(`41_rom_search.md` R128; the draw is the model's: log 13). -/
def Obligations.FailedSearchDrawsTheCursor : Prop :=
  ∀ (i : Instr) (s t : State) (e : Err), i = .search ∨ i = .cmdSearchRom → exec i s = .next t →
    t.port.resp = .ofErr s.params e → e ≠ .crcMismatch →
    t.search = ⟨Config.freeRomNo s.draws, BitVec.ofNat 7 (Config.freeDiscrepancy s.draws).val,
      BitVec.ofNat 7 (Config.freeFamilyDiscrepancy s.draws).val, Config.freeDeviceFlag s.draws⟩ ∧
    t.search.InRange ∧ t.draws = s.draws + 1 ∧ t.host = s.host ∧ t.params = s.params

/-- With one reference device attached, a SEARCH from any cursor that is not exhausted finds it, and marks it the
last (`41_rom_search.md` R122, R123, R127, `20_memory.md` R66; the devices: log 7). -/
def Obligations.SearchFindsTheOnlyDevice : Prop :=
  ∀ (s : State) (d : Device), Reference s [d] → s.search.lastDeviceFlag = false →
    ∃ t, exec .search s = .next t ∧ t.search = ⟨d.rom, 0, s.search.lastFamilyDiscrepancy, true⟩ ∧
      Delivered
        (if s.params.searchCrcCheck && !crcOk (addressBytes d.rom) then ⟨.crcMismatch, 0, 0, 0⟩
          else ⟨.ok, 1, 0, d.rom.setWidth 72⟩) s t ∧
      t.pin.slots.length = 201 ∧ t.pin.drive = .released ∧ t.pin.crit = false ∧ t.draws = s.draws ∧
      t.host = s.host ∧ t.params = s.params

/-- Whatever the cursor, an Address a search returns from reference devices is that of one of them, and the pass
never ends without a candidate while a device is present (`41_rom_search.md` R122, R125; log 7). -/
def Obligations.FoundAddressIsAttached : Prop :=
  ∀ (s : State) (m : Memory), Reference s m → m ≠ [] → s.search.lastDeviceFlag = false →
    ∃ t d, exec .search s = .next t ∧ d ∈ m ∧ t.search.romNo = d.rom ∧
      Delivered
        (if s.params.searchCrcCheck && !crcOk (addressBytes d.rom) then ⟨.crcMismatch, 0, 0, 0⟩
          else ⟨.ok, 1, 0, d.rom.setWidth 72⟩) s t

/-- Order and completeness: from a start-of-enumeration cursor, with `n ≥ 1` reference devices whose addresses pass
the check where it is made, `n` searches return every address exactly once, ascending in the transmission-order bit
string; the `n`-th sets `last_device_flag`; the next returns not found and leaves the reset cursor
(`41_rom_search.md` R129). -/
def Obligations.SearchEnumeratesAllDevices : Prop :=
  ∀ (s : State) (m : Memory), Reference s m → m ≠ [] → s.search = ⟨0, 0, 0, false⟩ →
    (s.params.searchCrcCheck = true → ∀ d ∈ m, crcOk (addressBytes d.rom) = true) →
    ∃ found : List Address, found.Perm (m.map Device.rom) ∧ found.Pairwise TransmittedBefore ∧
      (searchRun m.length s).1 = found.map (fun a => ⟨.ok, 1, 0, a.setWidth 72⟩) ∧
      (searchRun m.length s).2.search.lastDeviceFlag = true ∧
      (searchRun (m.length + 1) s).1 = found.map (fun a => ⟨.ok, 1, 0, a.setWidth 72⟩) ++ [⟨.ok, 0, 0, 0⟩] ∧
      (searchRun (m.length + 1) s).2.search = ⟨0, 0, 0, false⟩

/-- No operation but the search operations and SEARCH_RESET writes the SearchState, and none writes the host's side
or the parameters (`10_state.md` R25, R32, `70_reset_and_hazards.md` R227). -/
def Obligations.OtherOperationsKeepTheCursor : Prop :=
  ∀ (i : Instr) (s t : State), exec i s = .next t →
    (i ≠ .search → i ≠ .searchReset → i ≠ .cmdSearchRom → t.search = s.search ∧ t.draws = s.draws) ∧
    t.host = s.host ∧ t.params = s.params

/-! ## CRC-8 -/

/-- CRC_CHECK_ADDR: Ok when `crc8` of bytes 0 to 6 is byte 7, else `CrcMismatch`; no pin primitive, nothing written.
The all-zero address passes and the all-ones one fails (`42_crc8.md` R143). -/
def Obligations.CrcCheckAddrAnswers : Prop :=
  (∀ (s : State) (a : Address), s.pin.crit = false →
    ∃ t, EndsSilently (.crcCheckAddr a) s t
        (if crc8 ((List.range 7).map (byteAt a)) = byteAt a 7 then ⟨.ok, 0, 0, 0⟩ else ⟨.crcMismatch, 0, 0, 0⟩) ∧
      t.search = s.search ∧ t.draws = s.draws) ∧
  crc8 ((List.range 7).map (byteAt (0 : Address))) = byteAt (0 : Address) 7 ∧
  crc8 ((List.range 7).map (byteAt (BitVec.allOnes 64))) ≠ byteAt (BitVec.allOnes 64) 7

/-- The bit-serial form and the table form of `crc8`, with the table's first sixteen entries (`42_crc8.md` R141). -/
def Obligations.CrcBitSerialAndTableForms : Prop :=
  (∀ bytes : List Byte, crc8 bytes = crc8Bits (bytes.flatMap bitsOf)) ∧
  (∀ (bytes : List Byte) (b : Byte), crc8 (bytes ++ [b]) = crcTable (crc8 bytes ^^^ b)) ∧
  (List.range 16).map (fun i => crcTable (BitVec.ofNat 8 i)) =
    [0x00, 0x5E, 0xBC, 0xE2, 0x61, 0x3F, 0xDD, 0x83, 0xC2, 0x9C, 0x7E, 0x20, 0xA3, 0xFD, 0x1F, 0x41]

/-- `crc8` of nothing is 0, and `crc8` is linear (`42_crc8.md` R145). -/
def Obligations.CrcIsLinear : Prop :=
  crc8 [] = 0x00 ∧
  ∀ x y : List Byte, x.length = y.length → crc8 (List.zipWith (· ^^^ ·) x y) = crc8 x ^^^ crc8 y

/-- `check_crc` passes exactly when the trailing byte is the `crc8` of the bytes before it, and exactly when `crc8` of
all of them is 0; else it raises `CrcMismatch`; either way nothing is written (`42_crc8.md` R142). -/
def Obligations.CheckCrcComparesTheTrailingByte : Prop :=
  ∀ (bytes : List Byte) (c : Byte) (s : State),
    checkCrc (bytes ++ [c]) s = (if crc8 bytes = c then .ok () s else .raised .crcMismatch s) ∧
    (crc8 bytes = c ↔ crc8 (bytes ++ [c]) = 0x00)

/-- Flipping any one bit of a valid Address, or of a valid scratchpad, makes `check_crc` raise (`42_crc8.md`
R144). -/
def Obligations.CrcDetectsSingleBitErrors : Prop :=
  (∀ (a : Address) (i : Nat) (s : State), i < 64 → crcOk (addressBytes a) = true →
    checkCrc (addressBytes (a ^^^ BitVec.twoPow 64 i)) s = .raised .crcMismatch s) ∧
  (∀ (sp : Scratchpad) (i : Nat) (s : State), i < 72 → crcOk (bytesOf 9 sp) = true →
    checkCrc (bytesOf 9 (sp ^^^ BitVec.twoPow 72 i)) s = .raised .crcMismatch s)

/-! ## The sensor driver -/

/-- Every keyed driver operation on an Address of another family ends in `FamilyCodeMismatch` before any pin
primitive (`43_ds18b20.md` R150). -/
def Obligations.FamilyCheckComesFirst : Prop :=
  ∀ (i : Instr) (a : Address) (s : State), Keyed a i → byteAt a 0 ≠ 0x28 → s.pin.crit = false →
    ∃ t, EndsSilently i s t ⟨.familyCodeMismatch, 0, 0, 0⟩ ∧ t.search = s.search ∧ t.draws = s.draws

/-- The driver operations that read, on a line that becomes idle with a device present, whatever is read: the match
transaction with nine bytes read, and the response those bytes make: `CrcMismatch` first, then for READ_SCRATCHPAD the
bytes, for GET_RESOLUTION the resolution (`UnexpectedResponse` for an unrecognised configuration byte), for READ_TEMP
the temperature. SET_RESOLUTION ends at a `CrcMismatch`, with nothing written; else it goes on with the transaction that
writes back TH and TL with the new configuration byte, which ends in `BusNotHigh` or `UnexpectedResponse` where its own
reset slot does (`43_ds18b20.md` R152, R156, R158, R164, `60_exceptions.md` R189). -/
def Obligations.DriverReadsOnTheWire : Prop :=
  ∀ (s : State) (p : Nat) (a : Address), byteAt a 0 = 0x28 → LineReady s p 380 →
    ∃ sp : Scratchpad, (s.env.remote = none → BytesSampled s.env (p + 164) (bytesOf 9 sp)) ∧
      (∃ t, Completes (.readScratchpad a) s t
        (if crc8 (bytesOf 8 sp) = byteAt sp 8 then ⟨.ok, 0, 0, sp⟩ else ⟨.crcMismatch, 0, 0, 0⟩)
        (pollEvents s.params.timing p ++ slotEvents s (readSlots a (bytesOf 9 sp))) (readSlots a (bytesOf 9 sp))) ∧
      (∃ t, Completes (.getResolution a) s t
        (if crc8 (bytesOf 8 sp) = byteAt sp 8 then
          match Resolution.ofCfg (byteAt sp 4) with
          | some r => ⟨.ok, r.code.setWidth 8, 0, 0⟩
          | none => ⟨.unexpectedResponse, 0, 0, 0⟩
        else ⟨.crcMismatch, 0, 0, 0⟩)
        (pollEvents s.params.timing p ++ slotEvents s (readSlots a (bytesOf 9 sp))) (readSlots a (bytesOf 9 sp))) ∧
      (∀ r, ∃ t, Completes (.readTemp a r) s t
        (if crc8 (bytesOf 8 sp) = byteAt sp 8 then
          ⟨.ok, 0, decodeTemp s.params [byteAt sp 0, byteAt sp 1] r, 0⟩
        else ⟨.crcMismatch, 0, 0, 0⟩)
        (pollEvents s.params.timing p ++ slotEvents s (readSlots a (bytesOf 9 sp))) (readSlots a (bytesOf 9 sp))) ∧
      (crc8 (bytesOf 8 sp) ≠ byteAt sp 8 → ∀ r, ∃ t, Completes (.setResolution a r) s t ⟨.crcMismatch, 0, 0, 0⟩
        (pollEvents s.params.timing p ++ slotEvents s (readSlots a (bytesOf 9 sp))) (readSlots a (bytesOf 9 sp)) ∧
        ∀ m, s.env.remote = some m → ∃ m', t.env.remote = some m' ∧ BytesKept m m' (fun _ _ => False)) ∧
      (crc8 (bytesOf 8 sp) = byteAt sp 8 → ∀ r,
        (∀ q, LineReady (s.later (p + 380)) q 212 → ∃ t, Completes (.setResolution a r) s t ⟨.ok, 0, 0, 0⟩
          (pollEvents s.params.timing p ++ slotEvents s (readSlots a (bytesOf 9 sp)) ++
            (pollEvents s.params.timing q ++ slotEvents s (writeSlots a (byteAt sp 2) (byteAt sp 3) r.cfg)))
          (readSlots a (bytesOf 9 sp) ++ writeSlots a (byteAt sp 2) (byteAt sp 3) r.cfg)) ∧
        ((∀ k, k < s.params.timing.nPoll → (s.later (p + 380)).env.levelAt k .released .poll = .low) →
          (s.later (p + 380)).env.Unfaulted s.params.timing.nPoll → ∃ t,
            Completes (.setResolution a r) s t ⟨.busNotHigh, 0, 0, 0⟩
              (pollEvents s.params.timing p ++ slotEvents s (readSlots a (bytesOf 9 sp)) ++
                (List.replicate s.params.timing.nPoll [.sample .low, .delay s.params.timing.tPoll]).flatten)
              (readSlots a (bytesOf 9 sp))) ∧
        (∀ q, LineIdle (s.later (p + 380)) q →
          (s.later (p + 380)).env.levelAt (q + 3) .released .presence = .high →
          (s.later (p + 380)).env.Unfaulted (q + 4) → ∃ t,
            Completes (.setResolution a r) s t ⟨.unexpectedResponse, 0, 0, 0⟩
              (pollEvents s.params.timing p ++ slotEvents s (readSlots a (bytesOf 9 sp)) ++
                (pollEvents s.params.timing q ++ slotEvents s [.reset false]))
              (readSlots a (bytesOf 9 sp) ++ [.reset false])))

/-- In the reference environment, the three reading operations deliver what the device at the Address holds, over the
whole transaction, and no byte of any device changes, but for the end of a conversion already in progress in another
(`43_ds18b20.md` R152, R156, R164, `20_memory.md` R66; log 7). An address with no device is a read of ones, which fails
the check, and changes no byte either. -/
def Obligations.ReferenceDeviceIsRead : Prop :=
  ∀ (s : State) (m : Memory) (a : Address), Reference s m → byteAt a 0 = 0x28 →
    (∀ d, Memory.find m a = some d → d.converting = none → crcOk (bytesOf 9 d.sp) = true →
      (∃ t m', Completes (.readScratchpad a) s t ⟨.ok, 0, 0, d.sp⟩
        (pollEvents s.params.timing 0 ++ slotEvents s (readSlots a (bytesOf 9 d.sp))) (readSlots a (bytesOf 9 d.sp)) ∧
        t.env.remote = some m' ∧ BytesKept m m' (fun _ _ => False)) ∧
      (∀ r : Resolution, byteAt d.sp 4 = r.cfg → ∃ t m',
        Completes (.getResolution a) s t ⟨.ok, r.code.setWidth 8, 0, 0⟩
          (pollEvents s.params.timing 0 ++ slotEvents s (readSlots a (bytesOf 9 d.sp)))
          (readSlots a (bytesOf 9 d.sp)) ∧
        t.env.remote = some m' ∧ BytesKept m m' (fun _ _ => False)) ∧
      (∀ r, ∃ t m', Completes (.readTemp a r) s t
        ⟨.ok, 0, decodeTemp s.params [byteAt d.sp 0, byteAt d.sp 1] r, 0⟩
        (pollEvents s.params.timing 0 ++ slotEvents s (readSlots a (bytesOf 9 d.sp)))
        (readSlots a (bytesOf 9 d.sp)) ∧
        t.env.remote = some m' ∧ BytesKept m m' (fun _ _ => False))) ∧
    (m ≠ [] → Memory.find m a = none → ∃ t m', Completes (.readScratchpad a) s t ⟨.crcMismatch, 0, 0, 0⟩
      (pollEvents s.params.timing 0 ++ slotEvents s (readSlots a (List.replicate 9 0xFF)))
      (readSlots a (List.replicate 9 0xFF)) ∧
      t.env.remote = some m' ∧ BytesKept m m' (fun _ _ => False))

/-- WRITE_SCRATCHPAD on a line that becomes idle with a device present: the match transaction with the three bytes in
layout order, Ok whatever is attached, nothing read back (`43_ds18b20.md` R154). -/
def Obligations.WriteScratchpadSlots : Prop :=
  ∀ (s : State) (p : Nat) (a : Address) (th tl cfg : Byte), byteAt a 0 = 0x28 → LineReady s p 212 →
    ∃ t, Completes (.writeScratchpad a th tl cfg) s t ⟨.ok, 0, 0, 0⟩
      (pollEvents s.params.timing p ++ slotEvents s (writeSlots a th tl cfg)) (writeSlots a th tl cfg)

/-- In the reference environment WRITE_SCRATCHPAD stores TH, TL and config into bytes 2, 3, 4 of the device at its
Address, whose byte 8 becomes the CRC of the others, and changes no other byte of any device (`20_memory.md` R52,
R66; log 7). -/
def Obligations.WriteScratchpadStores : Prop :=
  ∀ (s : State) (m : Memory) (a : Address) (d : Device) (th tl cfg : Byte), Reference s m → byteAt a 0 = 0x28 →
    Memory.find m a = some d →
    ∃ t m' d', exec (.writeScratchpad a th tl cfg) s = .next t ∧ Delivered ⟨.ok, 0, 0, 0⟩ s t ∧ Kept s t ∧
      t.env.remote = some m' ∧ Memory.find m' a = some d' ∧
      byteAt d'.sp 2 = th ∧ byteAt d'.sp 3 = tl ∧ byteAt d'.sp 4 = cfg ∧ crcOk (bytesOf 9 d'.sp) = true ∧
      BytesKept m m' (fun b k => b = a ∧ (k = 2 ∨ k = 3 ∨ k = 4 ∨ k = 8))

/-- In the reference environment SET_RESOLUTION makes both transactions, writes back TH and TL as they were, stores
the configuration byte of the resolution, and changes no other byte but the CRC (`43_ds18b20.md` R158; log 7). -/
def Obligations.SetResolutionStores : Prop :=
  ∀ (s : State) (m : Memory) (a : Address) (d : Device) (r : Resolution), Reference s m → byteAt a 0 = 0x28 →
    Memory.find m a = some d → d.converting = none → crcOk (bytesOf 9 d.sp) = true →
    ∃ t m' d', Completes (.setResolution a r) s t ⟨.ok, 0, 0, 0⟩
      (pollEvents s.params.timing 0 ++ slotEvents s (readSlots a (bytesOf 9 d.sp)) ++
        (pollEvents s.params.timing 0 ++ slotEvents s (writeSlots a (byteAt d.sp 2) (byteAt d.sp 3) r.cfg)))
      (readSlots a (bytesOf 9 d.sp) ++ writeSlots a (byteAt d.sp 2) (byteAt d.sp 3) r.cfg) ∧
      t.env.remote = some m' ∧ Memory.find m' a = some d' ∧ byteAt d'.sp 4 = r.cfg ∧
      crcOk (bytesOf 9 d'.sp) = true ∧ BytesKept m m' (fun b k => b = a ∧ (k = 4 ∨ k = 8))

/-- `set_resolution(R); resolution() == R` for all four resolutions, in the reference environment
(`43_ds18b20.md` R158; log 7). -/
def Obligations.ResolutionRoundTrip : Prop :=
  ∀ (s : State) (m : Memory) (a : Address) (d : Device) (r : Resolution), Reference s m → byteAt a 0 = 0x28 →
    Memory.find m a = some d → d.converting = none → crcOk (bytesOf 9 d.sp) = true →
    ∃ t u, exec (.setResolution a r) s = .next t ∧ exec (.getResolution a) t = .next u ∧
      u.port.resp = ⟨.ok, r.code.setWidth 8, 0, 0⟩ ∧ u.port.busy = false ∧ u.port.respValid = true

/-- START_MEASUREMENT in both forms, on a line that becomes idle with a device present: the convert command, and no
wait (`43_ds18b20.md` R160). -/
def Obligations.StartMeasurementSlots : Prop :=
  ∀ (s : State) (p : Nat),
    (LineReady s p 36 → ∃ t,
      Completes .startMeasurementSkip s t ⟨.ok, 0, 0, 0⟩ (pollEvents s.params.timing p ++ slotEvents s t.pin.slots)
        t.pin.slots ∧ t.pin.slots = .reset true :: (w8 0xCC ++ w8 0x44)) ∧
    (∀ a, byteAt a 0 = 0x28 → LineReady s p 164 → ∃ t,
      Completes (.startMeasurementMatch a) s t ⟨.ok, 0, 0, 0⟩
        (pollEvents s.params.timing p ++ slotEvents s t.pin.slots) t.pin.slots ∧
        t.pin.slots = .reset true :: (matchSlots a ++ w8 0x44))

/-- In the reference environment, START_MEASUREMENT skip starts a conversion in every device, under its configured
resolution and at the time the operation ends, and the targeted form in the device at its Address only (`43_ds18b20.md`
R160, `20_memory.md` R66; log 7; that a device already converting starts anew: log 28). -/
def Obligations.StartMeasurementStartsConversions : Prop :=
  ∀ (s : State) (m : Memory), Reference s m → m ≠ [] →
    (∃ t m', exec .startMeasurementSkip s = .next t ∧ t.env.remote = some m' ∧
      ∀ b d, Memory.find m b = some d →
        ∃ d', Memory.find m' b = some d' ∧ d'.converting = some ⟨byteAt d.sp 4, t.env.elapsedUs⟩) ∧
    (∀ a, byteAt a 0 = 0x28 →
      ∃ t m', exec (.startMeasurementMatch a) s = .next t ∧ t.env.remote = some m' ∧
        ∀ b d, Memory.find m b = some d → ∃ d', Memory.find m' b = some d' ∧
          (b = a → d'.converting = some ⟨byteAt d.sp 4, t.env.elapsedUs⟩) ∧
          (b ≠ a → d.converting = none → d'.converting = none))

/-- MEASURE, the host not having answered: START_MEASUREMENT, then `HostWait(CONV_MS(res))`; the engine stays busy,
the line released, no critical section open, the wait pending with its figure (`43_ds18b20.md` R166,
`93_implementation_defined.md` U10; log 14). -/
def Obligations.MeasureWaits : Prop :=
  ∀ (s : State) (p : Nat) (a : Address) (r : Resolution), byteAt a 0 = 0x28 → LineReady s p 164 →
    s.host.waitDone = false →
    ∃ t, exec (.measure a r) s = .next t ∧ Kept s t ∧
      t.port = { s.port with
        busy := true, respValid := false, waitReq := true, waitMs := BitVec.ofNat 10 r.convMs,
        suspended := some ⟨a, r⟩ } ∧
      t.pin = ⟨.released, false,
        pollEvents s.params.timing p ++ slotEvents s t.pin.slots ++ [.hostWait r.convMs], t.pin.slots⟩ ∧
      t.pin.slots = .reset true :: (matchSlots a ++ w8 0x44)

/-- In the reference environment MEASURE, the host answering the wait, returns the temperature that the conversion it
started yields, masked for the operand resolution, when that resolution's time covers the device's own; the scratchpad's
bytes 0, 1 and 8 are all that changes. That conversion's temperature is the device's next (`n` is 0), or the one after
it where an earlier conversion ended before it was started (`43_ds18b20.md` R166, `70_reset_and_hazards.md` R222; log 7,
log 14, log 27, log 28; that `wait_ms` keeps its figure: log 29). -/
def Obligations.MeasureReturnsTheSensedTemperature : Prop :=
  ∀ (s : State) (m : Memory) (a : Address) (d : Device) (r r₀ : Resolution), Reference s m → byteAt a 0 = 0x28 →
    Memory.find m a = some d → s.host.waitDone = true → Resolution.ofCfg (byteAt d.sp 4) = some r₀ →
    r₀.convMs ≤ r.convMs →
    ∃ t m' d' n, exec (.measure a r) s = .next t ∧ Kept s t ∧
      t.port = { s.port with
        busy := false, respValid := true,
        resp := ⟨.ok, 0, decodeTemp s.params [byteAt d'.sp 0, byteAt d'.sp 1] r, 0⟩,
        waitReq := false, waitMs := BitVec.ofNat 10 r.convMs, suspended := none } ∧
      t.pin.drive = .released ∧ t.pin.crit = false ∧ hostWaitMs t.pin.trace = r.convMs ∧
      t.pin.slots = .reset true :: (matchSlots a ++ w8 0x44) ++ readSlots a (bytesOf 9 d'.sp) ∧
      t.env.remote = some m' ∧ Memory.find m' a = some d' ∧ d'.converting = none ∧
      n ≤ 1 ∧ (d.converting = none → n = 0) ∧ d'.temps = d.temps.drop (n + 1) ∧
      (∀ raw, d.temps[n]? = some raw → rawTemp (byteAt d'.sp 0) (byteAt d'.sp 1) = raw) ∧
      BytesKept m m' (fun b k => b = a ∧ (k = 0 ∨ k = 1 ∨ k = 8))

/-- A wait answered later ends in the same state as one answered at once: MEASURE left waiting, and then a step with
the wait done, is MEASURE with the wait done (`00_scope.md` R17, `43_ds18b20.md` R166; log 14). -/
def Obligations.MeasureResumesWhereItWaited : Prop :=
  ∀ (s t : State) (a : Address) (r : Resolution),
    exec (.measure a r) { s with host := { s.host with waitDone := false, rst := false } } = .next t →
    t.port.busy = true →
    step { t with host := { t.host with waitDone := true } } =
      exec (.measure a r) { s with host := { s.host with waitDone := true, rst := false } }

/-- `decode_temp`: for every legal number format the value is the masked raw value, a signed number of sixteenths,
scaled exactly; and masking rounds toward minus infinity to a multiple of the resolution's step (`43_ds18b20.md`
R162, R170). -/
def Obligations.DecodeTempIsExact : Prop :=
  ∀ (p : Params) (sp : List Byte) (r : Resolution), p.Legal →
    decodeTemp p sp r = (rawTemp (sp.getD 0 0) (sp.getD 1 0) &&& r.mask).toInt * 2 ^ (p.tempFracBits - 4) ∧
    (2 : Int) ^ (12 - r.bits) ∣ (rawTemp (sp.getD 0 0) (sp.getD 1 0) &&& r.mask).toInt ∧
    (rawTemp (sp.getD 0 0) (sp.getD 1 0) &&& r.mask).toInt ≤ (rawTemp (sp.getD 0 0) (sp.getD 1 0)).toInt ∧
    (rawTemp (sp.getD 0 0) (sp.getD 1 0)).toInt <
      (rawTemp (sp.getD 0 0) (sp.getD 1 0) &&& r.mask).toInt + 2 ^ (12 - r.bits)

/-- The four resolutions: configuration byte, conversion time, code and mask (`10_state.md` R35, `30_encoding.md`
R74, R84, `43_ds18b20.md` R168); and only the four bytes are recognised, by the whole byte. -/
def Obligations.ResolutionTables : Prop :=
  [Resolution.bits9, .bits10, .bits11, .bits12].map Resolution.cfg = [0x1F, 0x3F, 0x5F, 0x7F] ∧
  [Resolution.bits9, .bits10, .bits11, .bits12].map Resolution.convMs = [94, 188, 375, 750] ∧
  [Resolution.bits9, .bits10, .bits11, .bits12].map Resolution.code = [0, 1, 2, 3] ∧
  [Resolution.bits9, .bits10, .bits11, .bits12].map Resolution.mask = [0xFFF8, 0xFFFC, 0xFFFE, 0xFFFF] ∧
  (∀ r : Resolution, r.bits = 9 + r.code.toNat ∧ r.cfg = (r.code.setWidth 8 <<< 5) ||| 0x1F) ∧
  (∀ (c : Byte) (r : Resolution), Resolution.ofCfg c = some r ↔ c = r.cfg)

/-! ## The wire command bytes -/

/-- Each wire command, not faulted, is its piece of the byte stream: the byte alone for skip, convert, copy and
recall; with the eight address bytes for match; with nine bytes read, unchecked, for read-scratchpad; with three bytes
for write-scratchpad (`30_encoding.md` R80, R81, R86; that a row is run as such a piece: log 3, log 5). -/
def Obligations.WirePieces : Prop :=
  ∀ s : State,
    (s.env.Unfaulted 16 →
      (∃ t, Completes .cmdSkipRom s t ⟨.ok, 0, 0, 0⟩ (slotEvents s (w8 0xCC)) (w8 0xCC)) ∧
      (∃ t, Completes .cmdConvertT s t ⟨.ok, 0, 0, 0⟩ (slotEvents s (w8 0x44)) (w8 0x44)) ∧
      (∃ t, Completes .cmdCopyScratchpad s t ⟨.ok, 0, 0, 0⟩ (slotEvents s (w8 0x48)) (w8 0x48)) ∧
      (∃ t, Completes .cmdRecallE2 s t ⟨.ok, 0, 0, 0⟩ (slotEvents s (w8 0xB8)) (w8 0xB8))) ∧
    (∀ a, s.env.Unfaulted 144 → ∃ t,
      Completes (.cmdMatchRom a) s t ⟨.ok, 0, 0, 0⟩ (slotEvents s t.pin.slots) t.pin.slots ∧
        t.pin.slots = w8 0x55 ++ (List.range 8).flatMap (fun k => w8 (byteAt a k))) ∧
    (s.env.Unfaulted 232 → ∃ (sp : Scratchpad) (t : State),
      Completes .cmdReadScratchpad s t ⟨.ok, 0, 0, sp⟩ (slotEvents s t.pin.slots) t.pin.slots ∧
        t.pin.slots = w8 0xBE ++ (bytesOf 9 sp).flatMap r8 ∧
        (s.env.remote = none → BytesSampled s.env 16 (bytesOf 9 sp))) ∧
    (∀ th tl cfg, s.env.Unfaulted 64 → ∃ t,
      Completes (.cmdWriteScratchpad th tl cfg) s t ⟨.ok, 0, 0, 0⟩ (slotEvents s t.pin.slots) t.pin.slots ∧
        t.pin.slots = w8 0x4E ++ (w8 th ++ w8 tl ++ w8 cfg))

/-- The search command, not faulted, with some device responding at each position: the byte and the 64 triplets, with
the directions, the cursor and the result of a search pass (`30_encoding.md` R80, R86, `41_rom_search.md` R122, R123;
log 3). -/
def Obligations.WireSearchPiece : Prop :=
  ∀ s : State, s.env.remote = none → s.env.Unfaulted 528 → (∀ k, k < 64 → s.env.probe 16 k ≠ (true, true)) →
    ∃ t, exec .cmdSearchRom s = .next t ∧ PassCursor s.search (s.env.probe 16) t.search ∧
      Delivered (passResponse s.params t.search) s t ∧
      t.pin = ⟨.released, false, slotEvents s t.pin.slots, t.pin.slots⟩ ∧
      t.pin.slots = w8 0xF0 ++ tripletSlots s.search (s.env.probe 16) 64 ∧
      t.draws = s.draws ∧ t.host = s.host ∧ t.params = s.params

/-! ## What the devices keep -/

/-- The operations that store nothing leave every byte of every device as it was, however they end, but for what the
end of a conversion already in progress writes (`20_memory.md` R52, R66; log 7, log 8). -/
def Obligations.NonStoringOperationsKeepScratchpads : Prop :=
  ∀ (i : Instr) (s t : State) (m : Memory), storesNothing i = true → s.env.remote = some m → exec i s = .next t →
    ∃ m', t.env.remote = some m' ∧ BytesKept m m' (fun _ _ => False)

/-- The raw writes store only in devices that listen: an operation without a reset slot, begun on a released line, leaves
the scratchpad bytes of an idle device as they were, and a wire piece other than write-scratchpad leaves those of a
device that expects it too (`20_memory.md` R66; log 3, log 7, log 8). -/
def Obligations.RawOperationsKeepDeafScratchpads : Prop :=
  ∀ (i : Instr) (s t : State) (m : Memory), s.env.remote = some m → s.pin.drive = .released → exec i s = .next t →
    (startsWithReset s.search i = false → ∃ m', t.env.remote = some m' ∧
      BytesKept m m' (fun a _ => ∃ d, Memory.find m a = some d ∧ d.mode ≠ .idle)) ∧
    (∀ μ, pieceMode i = some μ → (∀ th tl cfg, i ≠ .cmdWriteScratchpad th tl cfg) → ∃ m', t.env.remote = some m' ∧
      BytesKept m m' (fun a _ => ∃ d, Memory.find m a = some d ∧ d.mode ≠ .idle ∧ d.mode ≠ μ))

/-- What a raw write stores, its first slot not ending a reset pulse. A write slot stores its bit where a receiving
device expects it, and nowhere else. A byte stores the bits of the transfer that its eight slots are, and nothing else,
but in a device whose command byte it completes on the way: there the slots that are left may store into byte 2, or a
conversion begun may end. The write-scratchpad piece stores its three bytes and the CRC in every selected device, and
nothing in an idle one (`20_memory.md` R52, R66; log 3, log 7, log 8). -/
def Obligations.RawWritesStoreIntoReceivers : Prop :=
  ∀ (s : State) (m : Memory), s.env.remote = some m →
    (∀ b, s.env.Unfaulted 2 → NoPulse s (writeLow s.params.timing b) →
      ∃ t m', exec (.writeBit b) s = .next t ∧ t.env.remote = some m' ∧
      (∀ a d j, Memory.find m a = some d → d.mode = .recvSp j → j < 24 →
        ∃ d', Memory.find m' a = some d' ∧ d'.sp.getLsbD (16 + j) = b ∧
          (∀ i, 16 ≤ i → i < 40 → i ≠ 16 + j → d'.sp.getLsbD i = d.sp.getLsbD i) ∧
          d'.mode = (if j < 23 then .recvSp (j + 1) else .idle)) ∧
      BytesKept m m' (fun a k => ∃ d j, Memory.find m a = some d ∧ d.mode = .recvSp j ∧
        (k.val = 2 + j / 8 ∨ (23 ≤ j ∧ k = 8)))) ∧
    (∀ v, s.env.Unfaulted 16 → NoPulse s (writeLow s.params.timing (v.getLsbD 0)) →
      ∃ t m', exec (.writeByte v) s = .next t ∧ t.env.remote = some m' ∧
      (∀ a d j, Memory.find m a = some d → d.mode = .recvSp j → j < 24 →
        ∃ d', Memory.find m' a = some d' ∧
          (∀ i, 16 ≤ i → i < 40 → d'.sp.getLsbD i =
            if 16 + j ≤ i ∧ i < 24 + j then v.getLsbD (i - (16 + j)) else d.sp.getLsbD i) ∧
          d'.mode = (if j < 16 then .recvSp (j + 8) else .idle) ∧ (16 ≤ j → crcOk (bytesOf 9 d'.sp) = true)) ∧
      BytesKept m m' (fun a k => ∃ d, Memory.find m a = some d ∧
        ((∃ j l, d.mode = .recvSp j ∧ l < 8 ∧ (l = 0 ∨ j + l < 24) ∧ k.val = 2 + (j + l) / 8) ∨
          (∃ j, d.mode = .recvSp j ∧ 16 ≤ j ∧ k = 8) ∨
          (∃ n acc, d.mode = .function n acc ∧ n ≠ 0 ∧ (k = 0 ∨ k = 1 ∨ k = 2 ∨ k = 8))))) ∧
    (∀ th tl cfg, s.env.Unfaulted 64 → NoPulse s s.params.timing.tW0l →
      ∃ t m', exec (.cmdWriteScratchpad th tl cfg) s = .next t ∧ t.env.remote = some m' ∧
        (∀ a d, Memory.find m a = some d → d.mode = .function 0 0 →
          ∃ d', Memory.find m' a = some d' ∧ byteAt d'.sp 2 = th ∧ byteAt d'.sp 3 = tl ∧ byteAt d'.sp 4 = cfg ∧
            crcOk (bytesOf 9 d'.sp) = true) ∧
        BytesKept m m' (fun a k => ∃ d, Memory.find m a = some d ∧
          ((d.mode = .function 0 0 ∧ (k = 2 ∨ k = 3 ∨ k = 4 ∨ k = 8)) ∨
            (d.mode ≠ .function 0 0 ∧ d.mode ≠ .idle))))
end

