-- ==== Sys2Proof/Laws/State.lean ====
section
/-! SUPPORT. What each named update of the state does to each field, by computation: a part the update does not touch
is as it was, and in a part it touches every field is listed. -/

namespace Sys2Proof.Machine

variable (s : State)


/-! ## `emit` -/

@[simp] theorem emit_search (ev : Event) : (emit ev s).search = s.search := rfl
@[simp] theorem emit_pin_drive (ev : Event) : (emit ev s).pin.drive = s.pin.drive := rfl
@[simp] theorem emit_pin_crit (ev : Event) : (emit ev s).pin.crit = s.pin.crit := rfl
@[simp] theorem emit_pin_trace (ev : Event) : (emit ev s).pin.trace = s.pin.trace ++ [ev] := rfl
@[simp] theorem emit_pin_slots (ev : Event) : (emit ev s).pin.slots = s.pin.slots := rfl
@[simp] theorem emit_port (ev : Event) : (emit ev s).port = s.port := rfl
@[simp] theorem emit_host (ev : Event) : (emit ev s).host = s.host := rfl
@[simp] theorem emit_env (ev : Event) : (emit ev s).env = s.env := rfl
@[simp] theorem emit_params (ev : Event) : (emit ev s).params = s.params := rfl
@[simp] theorem emit_draws (ev : Event) : (emit ev s).draws = s.draws := rfl

/-! ## `Env.pass` and `Env.driven` -/

@[simp] theorem pass_script (e : Env) (dr : Drive) (us : Nat) : (e.pass dr us).script = e.script := rfl
@[simp] theorem pass_asked (e : Env) (dr : Drive) (us : Nat) : (e.pass dr us).asked = e.asked := rfl
@[simp] theorem pass_remote (e : Env) (dr : Drive) (us : Nat) : (e.pass dr us).remote = e.remote.map fun m => Memory.afterWait m e.ticks (e.elapsedUs + us) := rfl
@[simp] theorem pass_ticks (e : Env) (dr : Drive) (us : Nat) : (e.pass dr us).ticks = e.ticks + 1 := rfl
@[simp] theorem pass_elapsedUs (e : Env) (dr : Drive) (us : Nat) : (e.pass dr us).elapsedUs = e.elapsedUs + us := rfl
@[simp] theorem pass_low_lowUs (e : Env) (us : Nat) : (e.pass .low us).lowUs = e.lowUs + us := rfl
@[simp] theorem pass_released_lowUs (e : Env) (us : Nat) : (e.pass .released us).lowUs = e.lowUs := rfl
@[simp] theorem driven_script (e : Env) (old new : Drive) : (e.driven old new).script = e.script := rfl
@[simp] theorem driven_asked (e : Env) (old new : Drive) : (e.driven old new).asked = e.asked := rfl
@[simp] theorem driven_remote (e : Env) (old new : Drive) : (e.driven old new).remote = e.remote := rfl
@[simp] theorem driven_ticks (e : Env) (old new : Drive) : (e.driven old new).ticks = e.ticks := rfl
@[simp] theorem driven_elapsedUs (e : Env) (old new : Drive) : (e.driven old new).elapsedUs = e.elapsedUs := rfl
@[simp] theorem driven_low_lowUs (e : Env) (old : Drive) :
    (e.driven old .low).lowUs = if old = .low then e.lowUs else 0 := by
  cases old <;> rfl

/-! ## `delay` -/

@[simp] theorem delay_search (us : Nat) : (delay us s).search = s.search := rfl
@[simp] theorem delay_pin_drive (us : Nat) : (delay us s).pin.drive = s.pin.drive := rfl
@[simp] theorem delay_pin_crit (us : Nat) : (delay us s).pin.crit = s.pin.crit := rfl
@[simp] theorem delay_pin_trace (us : Nat) : (delay us s).pin.trace = s.pin.trace ++ [.delay us] := rfl
@[simp] theorem delay_pin_slots (us : Nat) : (delay us s).pin.slots = s.pin.slots := rfl
@[simp] theorem delay_port (us : Nat) : (delay us s).port = s.port := rfl
@[simp] theorem delay_host (us : Nat) : (delay us s).host = s.host := rfl
@[simp] theorem delay_env (us : Nat) : (delay us s).env = s.env.pass s.pin.drive us := rfl
@[simp] theorem delay_params (us : Nat) : (delay us s).params = s.params := rfl
@[simp] theorem delay_draws (us : Nat) : (delay us s).draws = s.draws := rfl

/-! ## `setCrit` -/

@[simp] theorem setCrit_search (b : Bool) : (setCrit b s).search = s.search := rfl
@[simp] theorem setCrit_pin_drive (b : Bool) : (setCrit b s).pin.drive = s.pin.drive := rfl
@[simp] theorem setCrit_pin_crit (b : Bool) : (setCrit b s).pin.crit = b := rfl
@[simp] theorem setCrit_pin_trace (b : Bool) : (setCrit b s).pin.trace = s.pin.trace := rfl
@[simp] theorem setCrit_pin_slots (b : Bool) : (setCrit b s).pin.slots = s.pin.slots := rfl
@[simp] theorem setCrit_port (b : Bool) : (setCrit b s).port = s.port := rfl
@[simp] theorem setCrit_host (b : Bool) : (setCrit b s).host = s.host := rfl
@[simp] theorem setCrit_env (b : Bool) : (setCrit b s).env = s.env := rfl
@[simp] theorem setCrit_params (b : Bool) : (setCrit b s).params = s.params := rfl
@[simp] theorem setCrit_draws (b : Bool) : (setCrit b s).draws = s.draws := rfl

/-! ## `critEnter` -/

@[simp] theorem critEnter_search : (critEnter s).search = s.search := rfl
@[simp] theorem critEnter_pin_drive : (critEnter s).pin.drive = s.pin.drive := rfl
@[simp] theorem critEnter_pin_crit : (critEnter s).pin.crit = true := rfl
@[simp] theorem critEnter_pin_trace : (critEnter s).pin.trace = s.pin.trace ++ [.critEnter] := rfl
@[simp] theorem critEnter_pin_slots : (critEnter s).pin.slots = s.pin.slots := rfl
@[simp] theorem critEnter_port : (critEnter s).port = s.port := rfl
@[simp] theorem critEnter_host : (critEnter s).host = s.host := rfl
@[simp] theorem critEnter_env : (critEnter s).env = s.env := rfl
@[simp] theorem critEnter_params : (critEnter s).params = s.params := rfl
@[simp] theorem critEnter_draws : (critEnter s).draws = s.draws := rfl

/-! ## `critExit` -/

@[simp] theorem critExit_search : (critExit s).search = s.search := rfl
@[simp] theorem critExit_pin_drive : (critExit s).pin.drive = s.pin.drive := rfl
@[simp] theorem critExit_pin_crit : (critExit s).pin.crit = false := rfl
@[simp] theorem critExit_pin_trace : (critExit s).pin.trace = s.pin.trace ++ [.critExit] := rfl
@[simp] theorem critExit_pin_slots : (critExit s).pin.slots = s.pin.slots := rfl
@[simp] theorem critExit_port : (critExit s).port = s.port := rfl
@[simp] theorem critExit_host : (critExit s).host = s.host := rfl
@[simp] theorem critExit_env : (critExit s).env = s.env := rfl
@[simp] theorem critExit_params : (critExit s).params = s.params := rfl
@[simp] theorem critExit_draws : (critExit s).draws = s.draws := rfl

/-! ## `setDrive_low` -/

@[simp] theorem setDrive_low_search : (setDrive .low s).search = s.search := rfl
@[simp] theorem setDrive_low_pin_drive : (setDrive .low s).pin.drive = .low := rfl
@[simp] theorem setDrive_low_pin_crit : (setDrive .low s).pin.crit = s.pin.crit := rfl
@[simp] theorem setDrive_low_pin_trace : (setDrive .low s).pin.trace = s.pin.trace ++ [.low] := rfl
@[simp] theorem setDrive_low_pin_slots : (setDrive .low s).pin.slots = s.pin.slots := rfl
@[simp] theorem setDrive_low_port : (setDrive .low s).port = s.port := rfl
@[simp] theorem setDrive_low_host : (setDrive .low s).host = s.host := rfl
@[simp] theorem setDrive_low_env : (setDrive .low s).env = s.env.driven s.pin.drive .low := rfl
@[simp] theorem setDrive_low_params : (setDrive .low s).params = s.params := rfl
@[simp] theorem setDrive_low_draws : (setDrive .low s).draws = s.draws := rfl

/-! ## `setDrive_released` -/

@[simp] theorem setDrive_released_search : (setDrive .released s).search = s.search := rfl
@[simp] theorem setDrive_released_pin_drive : (setDrive .released s).pin.drive = .released := rfl
@[simp] theorem setDrive_released_pin_crit : (setDrive .released s).pin.crit = s.pin.crit := rfl
@[simp] theorem setDrive_released_pin_trace : (setDrive .released s).pin.trace = s.pin.trace ++ [.release] := rfl
@[simp] theorem setDrive_released_pin_slots : (setDrive .released s).pin.slots = s.pin.slots := rfl
@[simp] theorem setDrive_released_port : (setDrive .released s).port = s.port := rfl
@[simp] theorem setDrive_released_host : (setDrive .released s).host = s.host := rfl
@[simp] theorem setDrive_released_env : (setDrive .released s).env = s.env := by
  simp [setDrive, emit, Env.driven]
@[simp] theorem setDrive_released_params : (setDrive .released s).params = s.params := rfl
@[simp] theorem setDrive_released_draws : (setDrive .released s).draws = s.draws := rfl

/-! ## `lowPulse` -/

@[simp] theorem lowPulse_search (own : Nat) : (lowPulse own s).search = s.search := rfl
@[simp] theorem lowPulse_pin (own : Nat) : (lowPulse own s).pin = s.pin := rfl
@[simp] theorem lowPulse_port (own : Nat) : (lowPulse own s).port = s.port := rfl
@[simp] theorem lowPulse_host (own : Nat) : (lowPulse own s).host = s.host := rfl
@[simp] theorem lowPulse_env_script (own : Nat) : (lowPulse own s).env.script = s.env.script := rfl
@[simp] theorem lowPulse_env_asked (own : Nat) : (lowPulse own s).env.asked = s.env.asked := rfl
@[simp] theorem lowPulse_env_remote (own : Nat) : (lowPulse own s).env.remote = s.env.remote.map fun m => Memory.afterLow m (s.pin.drive == .low && s.env.isPulse own) := rfl
@[simp] theorem lowPulse_env_ticks (own : Nat) : (lowPulse own s).env.ticks = s.env.ticks := rfl
@[simp] theorem lowPulse_env_elapsedUs (own : Nat) : (lowPulse own s).env.elapsedUs = s.env.elapsedUs := rfl
@[simp] theorem lowPulse_env_lowUs (own : Nat) : (lowPulse own s).env.lowUs = s.env.lowUs := rfl
@[simp] theorem lowPulse_params (own : Nat) : (lowPulse own s).params = s.params := rfl
@[simp] theorem lowPulse_draws (own : Nat) : (lowPulse own s).draws = s.draws := rfl

/-! ## `slotDone` -/

@[simp] theorem slotDone_search (slot : Slot) : (slotDone slot s).search = s.search := rfl
@[simp] theorem slotDone_pin_drive (slot : Slot) : (slotDone slot s).pin.drive = s.pin.drive := rfl
@[simp] theorem slotDone_pin_crit (slot : Slot) : (slotDone slot s).pin.crit = s.pin.crit := rfl
@[simp] theorem slotDone_pin_trace (slot : Slot) : (slotDone slot s).pin.trace = s.pin.trace := rfl
@[simp] theorem slotDone_pin_slots (slot : Slot) : (slotDone slot s).pin.slots = s.pin.slots ++ [slot] := rfl
@[simp] theorem slotDone_port (slot : Slot) : (slotDone slot s).port = s.port := rfl
@[simp] theorem slotDone_host (slot : Slot) : (slotDone slot s).host = s.host := rfl
@[simp] theorem slotDone_env_script (slot : Slot) : (slotDone slot s).env.script = s.env.script := rfl
@[simp] theorem slotDone_env_asked (slot : Slot) : (slotDone slot s).env.asked = s.env.asked := rfl
@[simp] theorem slotDone_env_remote (slot : Slot) : (slotDone slot s).env.remote = s.env.remote.map fun m => Memory.afterSlot m s.env.elapsedUs (s.env.isPulse (slot.lowUs s.params.timing)) slot := rfl
@[simp] theorem slotDone_env_ticks (slot : Slot) : (slotDone slot s).env.ticks = s.env.ticks := rfl
@[simp] theorem slotDone_env_elapsedUs (slot : Slot) : (slotDone slot s).env.elapsedUs = s.env.elapsedUs := rfl
@[simp] theorem slotDone_env_lowUs (slot : Slot) : (slotDone slot s).env.lowUs = s.env.lowUs := rfl
@[simp] theorem slotDone_params (slot : Slot) : (slotDone slot s).params = s.params := rfl
@[simp] theorem slotDone_draws (slot : Slot) : (slotDone slot s).draws = s.draws := rfl

/-! ## `accept` -/

@[simp] theorem accept_search : (accept s).search = s.search := rfl
@[simp] theorem accept_pin_drive : (accept s).pin.drive = s.pin.drive := rfl
@[simp] theorem accept_pin_crit : (accept s).pin.crit = s.pin.crit := rfl
@[simp] theorem accept_pin_trace : (accept s).pin.trace = [] := rfl
@[simp] theorem accept_pin_slots : (accept s).pin.slots = [] := rfl
@[simp] theorem accept_port_busy : (accept s).port.busy = true := rfl
@[simp] theorem accept_port_respValid : (accept s).port.respValid = false := rfl
@[simp] theorem accept_port_resp : (accept s).port.resp = s.port.resp := rfl
@[simp] theorem accept_port_waitReq : (accept s).port.waitReq = s.port.waitReq := rfl
@[simp] theorem accept_port_waitMs : (accept s).port.waitMs = s.port.waitMs := rfl
@[simp] theorem accept_port_suspended : (accept s).port.suspended = s.port.suspended := rfl
@[simp] theorem accept_host : (accept s).host = s.host := rfl
@[simp] theorem accept_env : (accept s).env = s.env := rfl
@[simp] theorem accept_params : (accept s).params = s.params := rfl
@[simp] theorem accept_draws : (accept s).draws = s.draws := rfl

/-! ## `respond` -/

@[simp] theorem respond_search (r : Response) : (respond r s).search = s.search := rfl
@[simp] theorem respond_pin (r : Response) : (respond r s).pin = s.pin := rfl
@[simp] theorem respond_port_busy (r : Response) : (respond r s).port.busy = false := rfl
@[simp] theorem respond_port_respValid (r : Response) : (respond r s).port.respValid = true := rfl
@[simp] theorem respond_port_resp (r : Response) : (respond r s).port.resp = r := rfl
@[simp] theorem respond_port_waitReq (r : Response) : (respond r s).port.waitReq = s.port.waitReq := rfl
@[simp] theorem respond_port_waitMs (r : Response) : (respond r s).port.waitMs = s.port.waitMs := rfl
@[simp] theorem respond_port_suspended (r : Response) : (respond r s).port.suspended = s.port.suspended := rfl
@[simp] theorem respond_host (r : Response) : (respond r s).host = s.host := rfl
@[simp] theorem respond_env (r : Response) : (respond r s).env = s.env := rfl
@[simp] theorem respond_params (r : Response) : (respond r s).params = s.params := rfl
@[simp] theorem respond_draws (r : Response) : (respond r s).draws = s.draws := rfl
/-! ## `takeAnswer` -/

@[simp] theorem takeAnswer_search : (takeAnswer s).search = s.search := rfl
@[simp] theorem takeAnswer_pin : (takeAnswer s).pin = s.pin := rfl
@[simp] theorem takeAnswer_port : (takeAnswer s).port = s.port := rfl
@[simp] theorem takeAnswer_host : (takeAnswer s).host = s.host := rfl
@[simp] theorem takeAnswer_params : (takeAnswer s).params = s.params := rfl
@[simp] theorem takeAnswer_draws : (takeAnswer s).draws = s.draws := rfl
@[simp] theorem takeAnswer_env : (takeAnswer s).env = s.env.answered := rfl

/-! ## `setSearch` -/

@[simp] theorem setSearch_search (c : SearchState) : (setSearch c s).search = c := rfl
@[simp] theorem setSearch_pin (c : SearchState) : (setSearch c s).pin = s.pin := rfl
@[simp] theorem setSearch_port (c : SearchState) : (setSearch c s).port = s.port := rfl
@[simp] theorem setSearch_host (c : SearchState) : (setSearch c s).host = s.host := rfl
@[simp] theorem setSearch_env (c : SearchState) : (setSearch c s).env = s.env := rfl
@[simp] theorem setSearch_params (c : SearchState) : (setSearch c s).params = s.params := rfl
@[simp] theorem setSearch_draws (c : SearchState) : (setSearch c s).draws = s.draws := rfl

/-! ## `searchReset` -/

@[simp] theorem searchReset_search : (searchReset s).search = .zero := rfl
@[simp] theorem searchReset_pin : (searchReset s).pin = s.pin := rfl
@[simp] theorem searchReset_port : (searchReset s).port = s.port := rfl
@[simp] theorem searchReset_host : (searchReset s).host = s.host := rfl
@[simp] theorem searchReset_env : (searchReset s).env = s.env := rfl
@[simp] theorem searchReset_params : (searchReset s).params = s.params := rfl
@[simp] theorem searchReset_draws : (searchReset s).draws = s.draws := rfl

/-! ## `drawSearch` -/

@[simp] theorem drawSearch_pin : (drawSearch s).pin = s.pin := rfl
@[simp] theorem drawSearch_port : (drawSearch s).port = s.port := rfl
@[simp] theorem drawSearch_host : (drawSearch s).host = s.host := rfl
@[simp] theorem drawSearch_env : (drawSearch s).env = s.env := rfl
@[simp] theorem drawSearch_params : (drawSearch s).params = s.params := rfl
@[simp] theorem drawSearch_draws : (drawSearch s).draws = s.draws + 1 := rfl

/-! ## `elapse` -/

@[simp] theorem elapse_search (ms : Nat) : (elapse ms s).search = s.search := rfl
@[simp] theorem elapse_pin (ms : Nat) : (elapse ms s).pin = s.pin := rfl
@[simp] theorem elapse_port (ms : Nat) : (elapse ms s).port = s.port := rfl
@[simp] theorem elapse_host (ms : Nat) : (elapse ms s).host = s.host := rfl
@[simp] theorem elapse_env_script (ms : Nat) : (elapse ms s).env.script = s.env.script := rfl
@[simp] theorem elapse_env_asked (ms : Nat) : (elapse ms s).env.asked = s.env.asked := rfl
@[simp] theorem elapse_env_ticks (ms : Nat) : (elapse ms s).env.ticks = s.env.ticks + 1 := rfl
@[simp] theorem elapse_env_elapsedUs (ms : Nat) : (elapse ms s).env.elapsedUs = s.env.elapsedUs + 1000 * ms := rfl
@[simp] theorem elapse_env_remote (ms : Nat) : (elapse ms s).env.remote = s.env.remote.map fun m => Memory.afterLow (Memory.afterWait m s.env.ticks (s.env.elapsedUs + 1000 * ms)) (s.pin.drive == .low && (s.env.pass s.pin.drive (1000 * ms)).isPulse 0) := by
  rw [elapse, lowPulse_env_remote, pass_remote, Option.map_map]; rfl
@[simp] theorem elapse_params (ms : Nat) : (elapse ms s).params = s.params := rfl
@[simp] theorem elapse_draws (ms : Nat) : (elapse ms s).draws = s.draws := rfl

/-! ## `raiseWait` -/

@[simp] theorem raiseWait_search (w : Suspended) : (raiseWait w s).search = s.search := rfl
@[simp] theorem raiseWait_pin_drive (w : Suspended) : (raiseWait w s).pin.drive = s.pin.drive := rfl
@[simp] theorem raiseWait_pin_crit (w : Suspended) : (raiseWait w s).pin.crit = s.pin.crit := rfl
@[simp] theorem raiseWait_pin_trace (w : Suspended) : (raiseWait w s).pin.trace = s.pin.trace ++ [.hostWait w.res.convMs] := rfl
@[simp] theorem raiseWait_pin_slots (w : Suspended) : (raiseWait w s).pin.slots = s.pin.slots := rfl
@[simp] theorem raiseWait_port_busy (w : Suspended) : (raiseWait w s).port.busy = s.port.busy := rfl
@[simp] theorem raiseWait_port_respValid (w : Suspended) : (raiseWait w s).port.respValid = s.port.respValid := rfl
@[simp] theorem raiseWait_port_resp (w : Suspended) : (raiseWait w s).port.resp = s.port.resp := rfl
@[simp] theorem raiseWait_port_waitReq (w : Suspended) : (raiseWait w s).port.waitReq = true := rfl
@[simp] theorem raiseWait_port_waitMs (w : Suspended) : (raiseWait w s).port.waitMs = BitVec.ofNat 10 w.res.convMs := rfl
@[simp] theorem raiseWait_port_suspended (w : Suspended) : (raiseWait w s).port.suspended = some w := rfl
@[simp] theorem raiseWait_host (w : Suspended) : (raiseWait w s).host = s.host := rfl
@[simp] theorem raiseWait_env (w : Suspended) : (raiseWait w s).env = s.env := rfl
@[simp] theorem raiseWait_params (w : Suspended) : (raiseWait w s).params = s.params := rfl
@[simp] theorem raiseWait_draws (w : Suspended) : (raiseWait w s).draws = s.draws := rfl

/-! ## `endWait` -/

@[simp] theorem endWait_search (w : Suspended) : (endWait w s).search = s.search := rfl
@[simp] theorem endWait_pin (w : Suspended) : (endWait w s).pin = s.pin := rfl
@[simp] theorem endWait_port_busy (w : Suspended) : (endWait w s).port.busy = s.port.busy := rfl
@[simp] theorem endWait_port_respValid (w : Suspended) : (endWait w s).port.respValid = s.port.respValid := rfl
@[simp] theorem endWait_port_resp (w : Suspended) : (endWait w s).port.resp = s.port.resp := rfl
@[simp] theorem endWait_port_waitReq (w : Suspended) : (endWait w s).port.waitReq = false := rfl
@[simp] theorem endWait_port_waitMs (w : Suspended) : (endWait w s).port.waitMs = s.port.waitMs := rfl
@[simp] theorem endWait_port_suspended (w : Suspended) : (endWait w s).port.suspended = none := rfl
@[simp] theorem endWait_host (w : Suspended) : (endWait w s).host = s.host := rfl
@[simp] theorem endWait_env (w : Suspended) : (endWait w s).env = (elapse w.res.convMs s).env := rfl
@[simp] theorem endWait_params (w : Suspended) : (endWait w s).params = s.params := rfl
@[simp] theorem endWait_draws (w : Suspended) : (endWait w s).draws = s.draws := rfl

/-! ## `setInputs` -/

@[simp] theorem setInputs_search (inputs : List HostInput) : (setInputs inputs s).search = s.search := rfl
@[simp] theorem setInputs_pin (inputs : List HostInput) : (setInputs inputs s).pin = s.pin := rfl
@[simp] theorem setInputs_port (inputs : List HostInput) : (setInputs inputs s).port = s.port := rfl
@[simp] theorem setInputs_host_inputs (inputs : List HostInput) : (setInputs inputs s).host.inputs = inputs := rfl
@[simp] theorem setInputs_host_waitDone (inputs : List HostInput) : (setInputs inputs s).host.waitDone = s.host.waitDone := rfl
@[simp] theorem setInputs_host_rst (inputs : List HostInput) : (setInputs inputs s).host.rst = s.host.rst := rfl
@[simp] theorem setInputs_env (inputs : List HostInput) : (setInputs inputs s).env = s.env := rfl
@[simp] theorem setInputs_params (inputs : List HostInput) : (setInputs inputs s).params = s.params := rfl
@[simp] theorem setInputs_draws (inputs : List HostInput) : (setInputs inputs s).draws = s.draws := rfl

/-! ## `engineReset` -/

@[simp] theorem engineReset_search : (engineReset s).search = .zero := rfl
@[simp] theorem engineReset_pin : (engineReset s).pin = State.reset.pin := rfl
@[simp] theorem engineReset_port : (engineReset s).port = State.reset.port := rfl
@[simp] theorem engineReset_host_inputs : (engineReset s).host.inputs = s.host.inputs := rfl
@[simp] theorem engineReset_host_waitDone : (engineReset s).host.waitDone = s.host.waitDone := rfl
@[simp] theorem engineReset_host_rst : (engineReset s).host.rst = false := rfl
@[simp] theorem engineReset_env : (engineReset s).env = s.env := rfl
@[simp] theorem engineReset_params : (engineReset s).params = s.params := rfl
@[simp] theorem engineReset_draws : (engineReset s).draws = s.draws := rfl

/-! ## `presentCode` -/

@[simp] theorem presentCode_search (c : Code) : (presentCode c s).search = s.search := rfl
@[simp] theorem presentCode_pin (c : Code) : (presentCode c s).pin = s.pin := rfl
@[simp] theorem presentCode_port_busy (c : Code) : (presentCode c s).port.busy = false := rfl
@[simp] theorem presentCode_port_respValid (c : Code) : (presentCode c s).port.respValid = s.port.respValid := rfl
@[simp] theorem presentCode_port_resp (c : Code) : (presentCode c s).port.resp = s.port.resp := rfl
@[simp] theorem presentCode_port_waitReq (c : Code) : (presentCode c s).port.waitReq = s.port.waitReq := rfl
@[simp] theorem presentCode_port_waitMs (c : Code) : (presentCode c s).port.waitMs = s.port.waitMs := rfl
@[simp] theorem presentCode_port_suspended (c : Code) : (presentCode c s).port.suspended = none := rfl
@[simp] theorem presentCode_host_inputs (c : Code) : (presentCode c s).host.inputs = .code c :: s.host.inputs := rfl
@[simp] theorem presentCode_host_waitDone (c : Code) : (presentCode c s).host.waitDone = s.host.waitDone := rfl
@[simp] theorem presentCode_host_rst (c : Code) : (presentCode c s).host.rst = false := rfl
@[simp] theorem presentCode_env (c : Code) : (presentCode c s).env = s.env := rfl
@[simp] theorem presentCode_params (c : Code) : (presentCode c s).params = s.params := rfl
@[simp] theorem presentCode_draws (c : Code) : (presentCode c s).draws = s.draws := rfl

end Sys2Proof.Machine
end

