-- ==== Sys2Proof/Laws/Device.lean ====
section
/-! SUPPORT. The reference devices: no slot and no wait changes an address, so the remote memory keeps its canonical
form; and what each update of a device leaves of its scratchpad. -/

namespace Sys2Proof.Machine

/-! ## Addresses are constant -/

@[simp] theorem endConversion_rom (n : Nat) (d : Device) : (endConversion n d).rom = d.rom := rfl
@[simp] theorem startConversion_rom (now : Nat) (d : Device) : (startConversion now d).rom = d.rom := rfl

@[simp] theorem tickDevice_rom (n now : Nat) (d : Device) : (tickDevice n now d).rom = d.rom := by
  unfold tickDevice
  split
  · rfl
  · split <;> rfl

@[simp] theorem onReset_rom (d : Device) : (onReset d).rom = d.rom := rfl

@[simp] theorem onRead_rom (d : Device) : (onRead d).rom = d.rom := by
  unfold onRead
  split <;> rfl

@[simp] theorem onFunction_rom (now : Nat) (d : Device) (c : Byte) : (onFunction now d c).rom = d.rom := by
  unfold onFunction
  split_ifs <;> rfl

@[simp] theorem onRecv_rom (d : Device) (j : Nat) (b : Bool) : (onRecv d j b).rom = d.rom := by
  unfold onRecv
  split_ifs <;> rfl

@[simp] theorem onWrite_rom (now : Nat) (b : Bool) (d : Device) : (onWrite now b d).rom = d.rom := by
  unfold onWrite
  split <;> (try split_ifs) <;> simp

@[simp] theorem onSlot_rom (now : Nat) (pulse : Bool) (slot : Slot) (d : Device) :
    (onSlot now pulse slot d).rom = d.rom := by
  cases slot <;> cases pulse <;> simp [onSlot]

/-! ## The canonical form is kept -/

/-- A population changed device by device, each at its address, stays canonical. -/
theorem wf_map {m : Memory} {f : Device → Device} (hf : ∀ d, (f d).rom = d.rom) (h : Memory.wf m) :
    Memory.wf (m.map f) := by
  simpa [Memory.wf, List.pairwise_map, hf] using h

/-- A slot keeps the canonical form. -/
theorem wf_afterSlot {m : Memory} (now : Nat) (pulse : Bool) (slot : Slot) (h : Memory.wf m) :
    Memory.wf (Memory.afterSlot m now pulse slot) :=
  wf_map (by simp) h

/-- Time keeps the canonical form. -/
theorem wf_afterWait {m : Memory} (n now : Nat) (h : Memory.wf m) : Memory.wf (Memory.afterWait m n now) :=
  wf_map (by simp) h

/-- A low time of the line keeps the canonical form. -/
theorem wf_afterLow {m : Memory} (pulse : Bool) (h : Memory.wf m) : Memory.wf (Memory.afterLow m pulse) :=
  wf_map (by intro d; cases pulse <;> simp) h

/-- Reset's memory has the canonical form: there is none. -/
theorem reset_memory_wf : ∀ m, State.reset.env.remote = some m → Memory.wf m := by
  intro m h
  cases h

/-! ## Looking a device up after a change of every device -/

theorem find_map {m : Memory} {f : Device → Device} (hf : ∀ d, (f d).rom = d.rom) (a : Address) :
    Memory.find (m.map f) a = (Memory.find m a).map f := by
  induction m with
  | nil => rfl
  | cons d m ih =>
    simp only [Memory.find, List.map_cons, List.find?_cons, hf]
    cases d.rom == a
    · simpa [Memory.find] using ih
    · rfl

/-- A byte read after a change of every device. -/
theorem readByte_map {m : Memory} {f : Device → Device} (hf : ∀ d, (f d).rom = d.rom) (a : Address) (k : Fin 9) :
    Memory.readByte (m.map f) a k = (Memory.find m a).map fun d => byteAt (f d).sp k := by
  simp [Memory.readByte, find_map hf, Option.map_map, Function.comp_def]

/-! ## Devices with no conversion in progress -/

/-- With no conversion in progress nothing ends. -/
@[simp] theorem tickDevice_idle {d : Device} (n now : Nat) (h : d.converting = none) : tickDevice n now d = d := by
  simp [tickDevice, h]

/-- A conversion whose bound has passed has ended. -/
theorem tickDevice_due {d : Device} {c : Conversion} {due : Nat} (n : Nat) {now : Nat} (hc : d.converting = some c)
    (hd : c.due = some due) (h : due ≤ now) : tickDevice n now d = endConversion n d := by
  simp [tickDevice, hc, hd, h]

/-- A conversion in progress goes on or ends; nothing else happens at an occasion. -/
theorem tickDevice_cases (n now : Nat) (d : Device) :
    tickDevice n now d = d ∨ d.converting.isSome = true ∧ tickDevice n now d = endConversion n d := by
  unfold tickDevice
  split
  · exact .inl rfl
  · rename_i c hc
    split
    · exact .inr ⟨by simp [hc], rfl⟩
    · exact .inl rfl

@[simp] theorem endConversion_mode (n : Nat) (d : Device) : (endConversion n d).mode = d.mode := rfl
@[simp] theorem endConversion_converting (n : Nat) (d : Device) : (endConversion n d).converting = none := rfl
@[simp] theorem endConversion_temps (n : Nat) (d : Device) : (endConversion n d).temps = d.temps.tail := rfl

@[simp] theorem tickDevice_mode (n now : Nat) (d : Device) : (tickDevice n now d).mode = d.mode := by
  rcases tickDevice_cases n now d with h | ⟨-, h⟩ <;> rw [h]
  rfl

/-! ## Reset pulses -/

/-- A reset pulse before an occasion, or after it, leaves the same device. -/
theorem tickDevice_onReset (n now : Nat) (d : Device) : tickDevice n now (onReset d) = onReset (tickDevice n now d) := by
  obtain ⟨rom, sp, mode, _ | c, temps⟩ := d
  · rfl
  · change (if c.due.any (· ≤ now) || Config.conversionEnds n rom then _ else _) =
      onReset (if c.due.any (· ≤ now) || Config.conversionEnds n rom then _ else _)
    split <;> rfl

@[simp] theorem onReset_onReset (d : Device) : onReset (onReset d) = onReset d := rfl

@[simp] theorem afterLow_false (m : Memory) : Memory.afterLow m false = m := by simp [Memory.afterLow]
@[simp] theorem afterLow_isEmpty (m : Memory) (pulse : Bool) : (Memory.afterLow m pulse).isEmpty = m.isEmpty := by
  simp [Memory.afterLow]

@[simp] theorem afterLow_roms (m : Memory) (pulse : Bool) :
    (Memory.afterLow m pulse).map Device.rom = m.map Device.rom := by
  cases pulse <;> simp [Memory.afterLow, Function.comp_def]
@[simp] theorem afterWait_isEmpty (m : Memory) (n now : Nat) : (Memory.afterWait m n now).isEmpty = m.isEmpty := by
  simp [Memory.afterWait]

@[simp] theorem afterWait_roms (m : Memory) (n now : Nat) :
    (Memory.afterWait m n now).map Device.rom = m.map Device.rom := by
  simp [Memory.afterWait, Function.comp_def]

@[simp] theorem afterSlot_roms (m : Memory) (now : Nat) (pulse : Bool) (slot : Slot) :
    (Memory.afterSlot m now pulse slot).map Device.rom = m.map Device.rom := by
  simp [Memory.afterSlot, Function.comp_def]

/-- Whether a reset pulse comes before or after time passes, the devices are the same. -/
theorem afterWait_afterLow (m : Memory) (n now : Nat) (pulse : Bool) :
    Memory.afterWait (Memory.afterLow m pulse) n now = Memory.afterLow (Memory.afterWait m n now) pulse := by
  cases pulse <;> simp [Memory.afterWait, Memory.afterLow, Function.comp_def, tickDevice_onReset]

/-- A pulse that a slot's low time was the end of, or the pulse of a reset slot, is taken once. -/
theorem afterSlot_afterLow {m : Memory} {now : Nat} {pulse early : Bool} {slot : Slot}
    (h : early = false ∨ early = pulse ∨ ∃ b, slot = .reset b) :
    Memory.afterSlot (Memory.afterLow m early) now pulse slot = Memory.afterSlot m now pulse slot := by
  cases early
  · simp
  · simp only [Memory.afterSlot, Memory.afterLow, List.map_map]
    congr 1
    funext d
    rcases h with h | rfl | ⟨b, rfl⟩
    · cases h
    · cases slot <;> simp [onSlot]
    · simp [onSlot]

/-! ## Bounds of conversions -/

theorem convMs_pos (r : Resolution) : 0 < r.convMs := by cases r <;> decide

/-- A conversion just started has not reached its bound. -/
theorem lt_due {cfg : Byte} {now due : Nat} (h : Conversion.due ⟨cfg, now⟩ = some due) : now < due := by
  simp only [Conversion.due, Option.map_eq_some_iff] at h
  obtain ⟨r, -, rfl⟩ := h
  have := convMs_pos r
  omega

/-- After time has passed no conversion is past its bound. -/
theorem tickDevice_bounded {n now : Nat} {d : Device} {c : Conversion} {due : Nat}
    (hc : (tickDevice n now d).converting = some c) (hd : c.due = some due) : now < due := by
  unfold tickDevice at hc
  split at hc
  · simp_all
  · rename_i c' hc'
    split at hc
    · cases hc
    · rename_i h
      simp_all

/-- A slot leaves a conversion in progress alone, or starts one. -/
theorem onSlot_converting (now : Nat) (pulse : Bool) (slot : Slot) (d : Device) :
    (onSlot now pulse slot d).converting = d.converting ∨
      ∃ cfg, (onSlot now pulse slot d).converting = some ⟨cfg, now⟩ := by
  cases slot with
  | reset b => exact .inl rfl
  | read b =>
    left
    cases pulse
    · simp only [onSlot, onRead, Bool.false_eq_true, if_false]
      split <;> rfl
    · rfl
  | write b =>
    cases pulse
    · simp only [onSlot, onWrite, onRecv, onFunction, Bool.false_eq_true, if_false]
      split <;> (try split_ifs) <;> first | exact .inl rfl | exact .inr ⟨_, rfl⟩
    · exact .inl rfl

@[simp] theorem onReset_sp (d : Device) : (onReset d).sp = d.sp := rfl

@[simp] theorem onRead_sp (d : Device) : (onRead d).sp = d.sp := by
  unfold onRead
  split <;> rfl

/-- A write slot changes a scratchpad only in a device that is receiving one. -/
theorem onWrite_sp {d : Device} (now : Nat) (b : Bool) (h : ∀ j, d.mode ≠ .recvSp j) :
    (onWrite now b d).sp = d.sp := by
  unfold onWrite
  split <;> (try split_ifs) <;> try rfl
  · unfold onFunction
    split_ifs <;> rfl
  · rename_i j heq
    exact absurd heq (h j)

end Sys2Proof.Machine
end

