-- ==== Sys2Proof/Laws/Ops.lean ====
section
/-! SUPPORT. Each shared operation once: what it answers when the environment does not fault it, and when it does. -/

namespace Sys2Proof.Machine

/-! ## Results -/

@[simp] theorem andThen_ok {α β : Type} (a : α) (s : State) (f : α → State → Result β) :
    (Result.ok a s).andThen f = f a s := rfl

@[simp] theorem andThen_raised {α β : Type} (e : Err) (s : State) (f : α → State → Result β) :
    (Result.raised e s : Result α).andThen f = .raised e s := rfl

@[simp] theorem final_ok {α : Type} (a : α) (s : State) : (Result.ok a s).final = s := rfl
@[simp] theorem final_raised {α : Type} (e : Err) (s : State) : (Result.raised e s : Result α).final = s := rfl

/-- A chain ends well exactly when both its parts do. -/
theorem andThen_eq_ok {α β : Type} {x : Result α} {f : α → State → Result β} {b : β} {t : State} :
    x.andThen f = .ok b t ↔ ∃ a s, x = .ok a s ∧ f a s = .ok b t := by
  cases x <;> simp

/-- A chain raises when its first part does, or its second after it. -/
theorem andThen_eq_raised {α β : Type} {x : Result α} {f : α → State → Result β} {e : Err} {t : State} :
    x.andThen f = .raised e t ↔ x = .raised e t ∨ ∃ a s, x = .ok a s ∧ f a s = .raised e t := by
  cases x <;> simp

/-- A property that the first part's final state has and every continuation keeps, the whole chain's has. -/
theorem final_andThen {α β : Type} {P : State → Prop} {x : Result α} {f : α → State → Result β}
    (hx : P x.final) (hf : ∀ a s, x = .ok a s → P s → P (f a s).final) : P (x.andThen f).final := by
  cases x with
  | ok a s => exact hf a s rfl hx
  | raised e s => exact hx

@[simp] theorem finish_ok {α : Type} (mk : α → Response) (a : α) (s : State) :
    finish mk (.ok a s) = respond (mk a) s := rfl
@[simp] theorem finish_raised {α : Type} (mk : α → Response) (e : Err) (s : State) :
    finish mk (.raised e s) = deliverError e s := rfl

/-! ## The environment's answers -/

@[simp] theorem given_answered (e : Env) (k : Nat) : e.answered.given k = e.given (k + 1) := by
  simp [Env.given, Env.answered]

@[simp] theorem faultAt_answered (e : Env) (k : Nat) : e.answered.faultAt k = e.faultAt (k + 1) := by
  simp only [Env.faultAt, given_answered]
  simp only [Env.answered, Nat.add_assoc, Nat.add_comm 1 k]

@[simp] theorem levelAt_answered (e : Env) (k : Nat) (dr : Drive) (kind : SampleKind) :
    e.answered.levelAt k dr kind = e.levelAt (k + 1) dr kind := by
  simp only [Env.levelAt, given_answered]
  simp only [Env.answered, Nat.add_assoc, Nat.add_comm 1 k]

theorem answered_eq_advance (e : Env) : e.answered = e.advance 1 := by
  simp [Env.answered, Env.advance]

@[simp] theorem advance_advance (e : Env) (m n : Nat) : (e.advance m).advance n = e.advance (m + n) := by
  simp [Env.advance, Nat.add_assoc]

@[simp] theorem advance_zero (e : Env) : e.advance 0 = e := by simp [Env.advance]
@[simp] theorem advance_remote (e : Env) (n : Nat) : (e.advance n).remote = e.remote := rfl
@[simp] theorem advance_asked (e : Env) (n : Nat) : (e.advance n).asked = e.asked + n := rfl

/-- The script and the count decide the coming faults, whatever the devices are. -/
theorem faultAt_congr {e e' : Env} (hs : e'.script = e.script) (ha : e'.asked = e.asked)
    (hr : e'.remote.isSome = e.remote.isSome) (k : Nat) : e'.faultAt k = e.faultAt k := by
  obtain ⟨sc, as, re, ti, el, lo⟩ := e
  obtain ⟨sc', as', re', ti', el', lo'⟩ := e'
  subst hs ha
  cases re <;> cases re' <;> simp_all [Env.faultAt, Env.given]

/-- The script, the count and the devices decide the coming samples. -/
theorem levelAt_ext {e e' : Env} (hs : e'.script = e.script) (ha : e'.asked = e.asked) (hr : e'.remote = e.remote)
    (k : Nat) (dr : Drive) (kind : SampleKind) : e'.levelAt k dr kind = e.levelAt k dr kind := by
  simp only [Env.levelAt, Env.given, hs, ha, hr]

/-- Poll and presence samples depend on the devices only by whether there is one. -/
theorem levelAt_congr {e e' : Env} (hs : e'.script = e.script) (ha : e'.asked = e.asked)
    (hr : e'.remote.map List.isEmpty = e.remote.map List.isEmpty) {kind : SampleKind} (hk : kind ≠ .read) (k : Nat)
    (dr : Drive) : e'.levelAt k dr kind = e.levelAt k dr kind := by
  obtain ⟨sc, as, re, ti, el, lo⟩ := e
  obtain ⟨sc', as', re', ti', el', lo'⟩ := e'
  subst hs ha
  cases re <;> cases re' <;> cases kind <;>
    simp_all [Env.levelAt, Env.given, lineLevel, Memory.pullsLow]

@[simp] theorem faultAt_pass (e : Env) (dr : Drive) (us k : Nat) : (e.pass dr us).faultAt k = e.faultAt k :=
  faultAt_congr (by simp) (by simp) (by simp) k
@[simp] theorem faultAt_driven (e : Env) (old new : Drive) (k : Nat) : (e.driven old new).faultAt k = e.faultAt k :=
  faultAt_congr (by simp) (by simp) (by simp) k
theorem levelAt_pass (e : Env) (d : Drive) (us k : Nat) (dr : Drive) {kind : SampleKind} (hk : kind ≠ .read) :
    (e.pass d us).levelAt k dr kind = e.levelAt k dr kind :=
  levelAt_congr (by simp) (by simp)
    (by rw [pass_remote, Option.map_map]; congr 1; funext m; exact afterWait_isEmpty m _ _) hk k dr
@[simp] theorem pass_answered (e : Env) (dr : Drive) (us : Nat) : e.answered.pass dr us = (e.pass dr us).answered := rfl
@[simp] theorem pass_advance (e : Env) (dr : Drive) (us n : Nat) :
    (e.advance n).pass dr us = (e.pass dr us).advance n := rfl
@[simp] theorem levelAt_driven (e : Env) (old new : Drive) (k : Nat) (dr : Drive) (kind : SampleKind) :
    (e.driven old new).levelAt k dr kind = e.levelAt k dr kind := rfl

@[simp] theorem lowPulse_faultAt (s : State) (own k : Nat) : (lowPulse own s).env.faultAt k = s.env.faultAt k :=
  faultAt_congr (by simp) (by simp) (by simp) k
theorem lowPulse_levelAt (s : State) (own k : Nat) (dr : Drive) {kind : SampleKind} (hk : kind ≠ .read) :
    (lowPulse own s).env.levelAt k dr kind = s.env.levelAt k dr kind :=
  levelAt_congr (by simp) (by simp)
    (by rw [lowPulse_env_remote, Option.map_map]; congr 1; funext m; exact afterLow_isEmpty m _) hk k dr

/-- With no device, and with no pulse, nothing happens. -/
theorem lowPulse_eq_self {s : State} {own : Nat}
    (h : (s.pin.drive == .low && s.env.isPulse own) = false ∨ s.env.remote = none) : lowPulse own s = s := by
  have hr : (s.env.remote.map fun m => Memory.afterLow m (s.pin.drive == .low && s.env.isPulse own)) =
      s.env.remote := by
    rcases h with h | h
    · rw [h]
      cases s.env.remote <;> simp
    · rw [h]
      rfl
  rw [lowPulse, hr]

@[simp] theorem hold_pin (s : State) (own us : Nat) : (hold own us s).pin = (delay us s).pin := rfl
@[simp] theorem hold_params (s : State) (own us : Nat) : (hold own us s).params = s.params := rfl
@[simp] theorem hold_script (s : State) (own us : Nat) : (hold own us s).env.script = s.env.script := rfl
@[simp] theorem hold_asked (s : State) (own us : Nat) : (hold own us s).env.asked = s.env.asked := rfl
@[simp] theorem hold_faultAt (s : State) (own us k : Nat) : (hold own us s).env.faultAt k = s.env.faultAt k := by
  simp [hold]
theorem hold_levelAt (s : State) (own us k : Nat) (dr : Drive) {kind : SampleKind} (hk : kind ≠ .read) :
    (hold own us s).env.levelAt k dr kind = s.env.levelAt k dr kind := by
  simp [hold, lowPulse_levelAt _ _ _ _ hk, levelAt_pass _ _ _ _ _ hk]

@[simp] theorem faultAt_advance (e : Env) (n k : Nat) : (e.advance n).faultAt k = e.faultAt (n + k) := by
  simp [Env.faultAt, Env.given, Env.advance, Nat.add_assoc]

@[simp] theorem levelAt_advance (e : Env) (n k : Nat) (dr : Drive) (kind : SampleKind) :
    (e.advance n).levelAt k dr kind = e.levelAt (n + k) dr kind := by
  simp [Env.levelAt, Env.given, Env.advance, Nat.add_assoc]

/-- With no script, the reference devices never fault. -/
theorem reference_unfaulted {e : Env} {m : Memory} (hs : e.script = []) (hr : e.remote = some m) (k : Nat) :
    e.faultAt k = none := by
  simp [Env.faultAt, Env.given, hs, hr]

/-! ## Pin primitives -/

/-- A primitive that is not faulted has its effect, with the level the environment answers. -/
theorem primitive_unfaulted {kind : Option SampleKind} {effect : Level → State → State} {s : State}
    (h : s.env.faultAt 0 = none) :
    ∃ l, primitive kind effect s = .ok l (effect l (takeAnswer s)) ∧
      ∀ k, kind = some k → l = s.env.levelAt 0 s.pin.drive k := by
  obtain ⟨search, pin, port, host, ⟨script, asked, remote, ticks, elapsedUs, lowUs⟩, params, draws⟩ := s
  rcases script with _ | ⟨_ | ⟨l | e⟩, rest⟩ <;> rcases remote with _ | m <;> rcases kind with _ | k <;>
    simp_all [primitive, takeAnswer, nextAnswer, lineAnswer, Env.faultAt, Env.levelAt, Env.given] <;>
    cases hf : Config.freeAnswer asked <;> simp_all

/-- A faulted primitive has no effect but to consume its answer, and raises `Pin(e)` (`00_scope.md` R14). -/
theorem primitive_faulted {kind : Option SampleKind} {effect : Level → State → State} {s : State} {e : PinErr}
    (h : s.env.faultAt 0 = some e) :
    primitive kind effect s = .raised (.pin e) (takeAnswer s) := by
  obtain ⟨search, pin, port, host, ⟨script, asked, remote, ticks, elapsedUs, lowUs⟩, params, draws⟩ := s
  rcases script with _ | ⟨_ | ⟨l | e⟩, rest⟩ <;> rcases remote with _ | m <;>
    simp_all [primitive, takeAnswer, nextAnswer, lineAnswer, Env.faultAt, Env.given] <;>
    cases hf : Config.freeAnswer asked <;> simp_all

theorem pinLow_unfaulted {s : State} (h : s.env.faultAt 0 = none) :
    pinLow s = .ok () (setDrive .low (takeAnswer s)) := by
  obtain ⟨l, hl, -⟩ := primitive_unfaulted (kind := none) (effect := fun _ => setDrive .low) h
  simp [pinLow, hl]

theorem pinRelease_unfaulted {s : State} (h : s.env.faultAt 0 = none) :
    pinRelease s = .ok () (setDrive .released (takeAnswer s)) := by
  obtain ⟨l, hl, -⟩ := primitive_unfaulted (kind := none) (effect := fun _ => setDrive .released) h
  simp [pinRelease, hl]

theorem pinSample_unfaulted {s : State} (kind : SampleKind) (h : s.env.faultAt 0 = none) :
    pinSample kind s = .ok (s.env.levelAt 0 s.pin.drive kind)
      (emit (.sample (s.env.levelAt 0 s.pin.drive kind)) (takeAnswer s)) := by
  obtain ⟨l, hl, hk⟩ := primitive_unfaulted (kind := some kind) (effect := fun l => emit (.sample l)) h
  rw [pinSample, hl, hk kind rfl]

theorem pinLow_faulted {s : State} {e : PinErr} (h : s.env.faultAt 0 = some e) :
    pinLow s = .raised (.pin e) (takeAnswer s) := by
  simp [pinLow, primitive_faulted h]

theorem pinRelease_faulted {s : State} {e : PinErr} (h : s.env.faultAt 0 = some e) :
    pinRelease s = .raised (.pin e) (takeAnswer s) := by
  simp [pinRelease, primitive_faulted h]

theorem pinSample_faulted {s : State} {e : PinErr} (kind : SampleKind) (h : s.env.faultAt 0 = some e) :
    pinSample kind s = .raised (.pin e) (takeAnswer s) := by
  simp [pinSample, primitive_faulted h]

/-! ## Slots -/

/-- How many primitives a slot takes, a reset slot past its poll. -/
def slotPrimitives : Slot → Nat
  | .reset _ => 3
  | .write _ => 2
  | .read _ => 3

/-- The low time that ends with a slot: its own, after what the line was low before. -/
def slotLowUs (s : State) (slot : Slot) : Nat :=
  (if s.pin.drive = .low then s.env.lowUs else 0) + slot.lowUs s.params.timing

/-- The delays of a slot after its low time, the line released. -/
def slotRests (t : Timing) : Slot → List Nat
  | .reset _ => [t.tPds, t.tRstr]
  | .write b => [writeIdle t b]
  | .read _ => [t.tRds, t.tRdr]

/-- Time passes on a released line, delay by delay. -/
def Env.rest (e : Env) (delays : List Nat) : Env := delays.foldl (fun e us => e.pass .released us) e

/-- The environment at the end of a slot: past its answers and its time, the devices not yet past the slot. -/
def slotEnv (s : State) (slot : Slot) : Env :=
  (((s.env.advance (slotPrimitives slot)).driven s.pin.drive .low).pass .low (slot.lowUs s.params.timing)).rest
    (slotRests s.params.timing slot)

/-- The state after one complete slot (`40_signaling.md` R110): its events and itself in the traces, the line
released, a critical section closed, the environment past its answers and its time, and the devices past the slot. -/
def afterSlot (s : State) (slot : Slot) : State :=
  { s with
    pin := {
      drive := .released
      crit  := match slot with | .reset _ => s.pin.crit | .write _ | .read _ => false
      trace := s.pin.trace ++ slot.events s.params.timing
      slots := s.pin.slots ++ [slot] }
    env := { slotEnv s slot with
      remote := (slotEnv s slot).remote.map fun m =>
        Memory.afterSlot m (slotEnv s slot).elapsedUs
          (slot.lowUs s.params.timing < slotLowUs s slot && Config.resetPulseUs ≤ slotLowUs s slot) slot } }

@[simp] theorem rest_nil (e : Env) : e.rest [] = e := rfl
@[simp] theorem rest_cons (e : Env) (us : Nat) (l : List Nat) : e.rest (us :: l) = (e.pass .released us).rest l := rfl

/-- What the time of a slot does to the environment, its devices aside. -/
theorem slotEnv_spec (s : State) (x : Slot) :
    (slotEnv s x).script = s.env.script.drop (slotPrimitives x) ∧ (slotEnv s x).asked = s.env.asked + slotPrimitives x ∧
      (slotEnv s x).ticks = s.env.ticks + (slotRests s.params.timing x).length + 1 ∧
      (slotEnv s x).elapsedUs = s.env.elapsedUs + nominalUs (x.events s.params.timing) ∧
      (slotEnv s x).lowUs = slotLowUs s x ∧ (slotEnv s x).remote.isSome = s.env.remote.isSome := by
  cases x <;> simp [slotEnv, slotRests, slotPrimitives, slotLowUs, Slot.lowUs, Slot.events, nominalUs, Event.nominalUs,
    Env.advance, Nat.add_assoc]

/-- The state after these slots in order. -/
def afterSlots (s : State) (slots : List Slot) : State := slots.foldl afterSlot s

@[simp] theorem afterSlots_nil (s : State) : afterSlots s [] = s := rfl
@[simp] theorem afterSlots_cons (s : State) (x : Slot) (xs : List Slot) :
    afterSlots s (x :: xs) = afterSlots (afterSlot s x) xs := rfl
theorem afterSlots_append (s : State) (xs ys : List Slot) :
    afterSlots s (xs ++ ys) = afterSlots (afterSlots s xs) ys := by simp [afterSlots]

@[simp] theorem afterSlot_search (s : State) (x : Slot) : (afterSlot s x).search = s.search := rfl
@[simp] theorem afterSlot_port (s : State) (x : Slot) : (afterSlot s x).port = s.port := rfl
@[simp] theorem afterSlot_host (s : State) (x : Slot) : (afterSlot s x).host = s.host := rfl
@[simp] theorem afterSlot_params (s : State) (x : Slot) : (afterSlot s x).params = s.params := rfl
@[simp] theorem afterSlot_draws (s : State) (x : Slot) : (afterSlot s x).draws = s.draws := rfl
@[simp] theorem afterSlot_drive (s : State) (x : Slot) : (afterSlot s x).pin.drive = .released := rfl
@[simp] theorem afterSlot_trace (s : State) (x : Slot) :
    (afterSlot s x).pin.trace = s.pin.trace ++ x.events s.params.timing := rfl
@[simp] theorem afterSlot_slots (s : State) (x : Slot) : (afterSlot s x).pin.slots = s.pin.slots ++ [x] := rfl
@[simp] theorem afterSlot_lowUs (s : State) (x : Slot) : (afterSlot s x).env.lowUs = slotLowUs s x :=
  (slotEnv_spec s x).2.2.2.2.1
@[simp] theorem afterSlot_ticks (s : State) (x : Slot) :
    (afterSlot s x).env.ticks = s.env.ticks + (slotRests s.params.timing x).length + 1 := (slotEnv_spec s x).2.2.1
@[simp] theorem afterSlot_elapsedUs (s : State) (x : Slot) :
    (afterSlot s x).env.elapsedUs = s.env.elapsedUs + nominalUs (x.events s.params.timing) := (slotEnv_spec s x).2.2.2.1
@[simp] theorem afterSlot_remote (s : State) (x : Slot) :
    (afterSlot s x).env.remote = (slotEnv s x).remote.map fun m =>
      Memory.afterSlot m (slotEnv s x).elapsedUs
        (x.lowUs s.params.timing < slotLowUs s x && Config.resetPulseUs ≤ slotLowUs s x) x := rfl
/-- From a released line the devices follow the slot itself. -/
theorem afterSlot_remote_released {s : State} (x : Slot) (h : s.pin.drive = .released) :
    (afterSlot s x).env.remote = (slotEnv s x).remote.map fun m =>
      Memory.afterSlot m (slotEnv s x).elapsedUs false x := by
  simp [slotLowUs, h]
@[simp] theorem afterSlot_script (s : State) (x : Slot) :
    (afterSlot s x).env.script = s.env.script.drop (slotPrimitives x) := (slotEnv_spec s x).1
@[simp] theorem afterSlot_asked (s : State) (x : Slot) :
    (afterSlot s x).env.asked = s.env.asked + slotPrimitives x := (slotEnv_spec s x).2.1
@[simp] theorem afterSlot_faultAt (s : State) (x : Slot) (k : Nat) :
    (afterSlot s x).env.faultAt k = s.env.faultAt (slotPrimitives x + k) := by
  rw [← faultAt_advance]
  exact faultAt_congr (e' := (afterSlot s x).env) (e := s.env.advance (slotPrimitives x)) (by simp [Env.advance])
    (by simp) (by simp [(slotEnv_spec s x).2.2.2.2.2]) k

/-- What a list of slots leaves alone, and what it adds to the traces. -/
theorem afterSlots_spec (xs : List Slot) (s : State) :
    (afterSlots s xs).search = s.search ∧ (afterSlots s xs).port = s.port ∧ (afterSlots s xs).host = s.host ∧
      (afterSlots s xs).params = s.params ∧ (afterSlots s xs).draws = s.draws ∧
      (afterSlots s xs).pin.trace = s.pin.trace ++ xs.flatMap (Slot.events s.params.timing) ∧
      (afterSlots s xs).pin.slots = s.pin.slots ++ xs ∧
      (xs ≠ [] → (afterSlots s xs).pin.drive = .released) := by
  induction xs generalizing s with
  | nil => simp
  | cons x xs ih =>
    obtain ⟨h1, h2, h3, h4, h5, h6, h7, h8⟩ := ih (afterSlot s x)
    refine ⟨h1, h2, h3, h4, h5, by simp [h6], by simp [h7], fun _ => ?_⟩
    cases xs with
    | nil => rfl
    | cons y ys => exact h8 (by simp)

/-- The coming faults after a list of slots. -/
theorem afterSlots_faultAt (xs : List Slot) (s : State) (k : Nat) :
    (afterSlots s xs).env.faultAt k = s.env.faultAt ((xs.map slotPrimitives).sum + k) := by
  induction xs generalizing s with
  | nil => simp
  | cons x xs ih => simp [ih, Nat.add_assoc]

end Sys2Proof.Machine
end

