-- ==== Sys2Proof/Laws/Signaling.lean ====
section
/-! SUPPORT. The sub-operations of the signaling layer: the slots each makes when the environment does not fault it. -/

namespace Sys2Proof.Machine

/-! ## The end of a slot -/

/-- A pulse taken during a slot's low time, or before it ends, is not taken again when the slot is complete. -/
theorem afterSlot_hold (remote : Option Memory) (f : Memory → Memory) {now : Nat} {pulse early : Bool} {slot : Slot}
    (h : early = false ∨ early = pulse ∨ ∃ b, slot = .reset b) :
    (remote.map fun m => Memory.afterSlot (Memory.afterLow (f m) early) now pulse slot) =
      remote.map fun m => Memory.afterSlot (f m) now pulse slot := by
  congr 1
  funext m
  exact afterSlot_afterLow h

/-! ## Write slots -/

/-- WRITE_BIT, not faulted, is one complete write slot. -/
theorem writeBit_unfaulted {s : State} (b : Bool) (h : s.env.Unfaulted 2) :
    writeBit b s = .ok () (afterSlot s (.write b)) := by
  have h0 := h 0 (by omega)
  have h1 := h 1 (by omega)
  unfold writeBit
  rw [pinLow_unfaulted (by simpa using h0), andThen_ok, pinRelease_unfaulted (by simpa using h1), andThen_ok]
  obtain ⟨search, ⟨drive, crit, trace, slots⟩, port, host, ⟨script, asked, remote, ticks, elapsedUs, lowUs⟩, params,
    draws⟩ := s
  cases drive <;>
    simp [afterSlot, slotDone, critExit, critEnter, setCrit, setDrive, hold, lowPulse, delay, emit, Slot.events,
      slotPrimitives, slotLowUs, Slot.lowUs, takeAnswer, Env.answered, Env.advance,
      Env.pass, Env.driven, Env.isPulse, slotEnv, slotRests, Function.comp_def, afterWait_afterLow, ← List.drop_one,
      Nat.add_assoc]
  exact afterSlot_hold remote _ (.inr (.inl rfl))

/-- Write slots, not faulted, are those complete write slots in order. -/
theorem writeBits_unfaulted (bs : List Bool) {s : State} (h : s.env.Unfaulted (2 * bs.length)) :
    writeBits bs s = .ok () (afterSlots s (bs.map .write)) := by
  induction bs generalizing s with
  | nil => rfl
  | cons b bs ih =>
    have hb : s.env.Unfaulted 2 := fun k hk => h k (by simp; omega)
    rw [writeBits, writeBit_unfaulted b hb, andThen_ok, ih, List.map_cons, afterSlots_cons]
    intro k hk
    rw [afterSlot_faultAt]
    exact h _ (by simp [slotPrimitives]; omega)

@[simp] theorem bitsOf_length (v : Byte) : (bitsOf v).length = 8 := by simp [bitsOf]
@[simp] theorem w8_length (v : Byte) : (w8 v).length = 8 := by simp [w8]
@[simp] theorem r8_length (v : Byte) : (r8 v).length = 8 := by simp [r8]

/-- WRITE_BYTE, not faulted, is `W8(v)`. -/
theorem writeByte_unfaulted {s : State} (v : Byte) (h : s.env.Unfaulted 16) :
    writeByte v s = .ok () (afterSlots s (w8 v)) :=
  writeBits_unfaulted (bitsOf v) (by simpa using h)

theorem slotPrimitives_w8 (v : Byte) : ((w8 v).map slotPrimitives).sum = 16 := by
  simp [w8, bitsOf, List.range_succ, slotPrimitives]

/-- Bytes written, not faulted, are their `W8` in order. -/
theorem writeBytes_unfaulted (vs : List Byte) {s : State} (h : s.env.Unfaulted (16 * vs.length)) :
    writeBytes vs s = .ok () (afterSlots s (vs.flatMap w8)) := by
  induction vs generalizing s with
  | nil => rfl
  | cons v vs ih =>
    have hv : s.env.Unfaulted 16 := fun k hk => h k (by simp; omega)
    rw [writeBytes, writeByte_unfaulted v hv, andThen_ok, ih, List.flatMap_cons, afterSlots_append]
    intro k hk
    rw [afterSlots_faultAt, slotPrimitives_w8]
    exact h _ (by simp; omega)

/-! ## Read slots -/

/-- READ_BIT, not faulted, is one complete read slot of the bit that was sampled: what the devices answer after the
delays before the sample, unless the slot ends a low time that is a reset pulse to them. -/
theorem readBit_unfaulted {s : State} (h : s.env.Unfaulted 3) :
    ∃ l : Level, readBit s = .ok l.toBool (afterSlot s (.read l.toBool)) ∧
      (NoPulse s s.params.timing.tRdl ∨ s.env.remote = none →
        l = ((s.env.pass .low s.params.timing.tRdl).pass .released s.params.timing.tRds).levelAt 2 .released .read) := by
  have h0 := h 0 (by omega)
  have h1 := h 1 (by omega)
  have h2 := h 2 (by omega)
  have hl : ∀ l : Level, levelOf l.toBool = l := by intro l; cases l <;> rfl
  unfold readBit
  rw [pinLow_unfaulted (by simpa using h0), andThen_ok, pinRelease_unfaulted (by simpa using h1), andThen_ok]
  generalize hu : setDrive .low (takeAnswer (critEnter s)) = u
  have hs : u.pin.drive = .low ∧ u.params = s.params ∧ u.env = (s.env.answered).driven s.pin.drive .low := by
    subst hu
    exact ⟨rfl, rfl, rfl⟩
  obtain ⟨l, hlv, hn⟩ : ∃ l, pinSample .read
      (delay (setDrive .released (takeAnswer (hold u.params.timing.tRdl u.params.timing.tRdl u))).params.timing.tRds
        (setDrive .released (takeAnswer (hold u.params.timing.tRdl u.params.timing.tRdl u)))) = .ok l
      (emit (.sample l) (takeAnswer
        (delay (setDrive .released (takeAnswer (hold u.params.timing.tRdl u.params.timing.tRdl u))).params.timing.tRds
          (setDrive .released (takeAnswer (hold u.params.timing.tRdl u.params.timing.tRdl u)))))) ∧
      (NoPulse s s.params.timing.tRdl ∨ s.env.remote = none →
        l = ((s.env.pass .low s.params.timing.tRdl).pass .released s.params.timing.tRds).levelAt 2 .released .read) := by
    refine ⟨_, pinSample_unfaulted _ (by simpa [hs] using h2), fun hp => ?_⟩
    rw [hold, lowPulse_eq_self]
    · simp only [hs, delay_env, delay_pin_drive, setDrive_released_env, setDrive_released_pin_drive,
        setDrive_released_params, takeAnswer_env, takeAnswer_params, delay_params]
      rw [pass_answered, levelAt_answered]
      exact (levelAt_ext rfl rfl rfl _ _ _).trans (levelAt_answered
        ((s.env.pass .low s.params.timing.tRdl).pass .released s.params.timing.tRds) 1 _ _)
    · rcases hp with hp | hp
      · left
        rcases hp with hp | hp | hp <;> simp [hs, hp, Env.isPulse, Env.answered]
        split_ifs <;> omega
      · right
        simpa [hs, Env.answered] using hp
  rw [hlv, andThen_ok]
  refine ⟨l, ?_, hn⟩
  subst hu
  clear hs hlv hn h h0 h1 h2
  obtain ⟨search, ⟨drive, crit, trace, slots⟩, port, host, ⟨script, asked, remote, ticks, elapsedUs, lowUs⟩, params,
    draws⟩ := s
  cases drive <;>
    simp [afterSlot, slotDone, critExit, critEnter, setCrit, setDrive, hold, lowPulse, delay, emit, Slot.events,
      slotPrimitives, slotLowUs, Slot.lowUs, takeAnswer, Env.answered, Env.advance,
      Env.pass, Env.driven, Env.isPulse, slotEnv, slotRests, Function.comp_def, afterWait_afterLow, ← List.drop_one,
      Nat.add_assoc, hl]
  exact afterSlot_hold remote _ (.inr (.inl rfl))

/-- The bit READ_BIT yields is the one its slot carries. -/
theorem readBit_ok {s : State} (h : s.env.Unfaulted 3) : ∃ b, readBit s = .ok b (afterSlot s (.read b)) :=
  let ⟨_, hl, _⟩ := readBit_unfaulted h
  ⟨_, hl⟩

/-! ## The reset slot -/

@[simp] theorem presentFlag_low : presentFlag .low = true := rfl
@[simp] theorem presentFlag_high : presentFlag .high = false := rfl

/-- The state after one `Low` sample of the poll, with its delay. -/
def afterLowPoll (s : State) : State := hold 0 s.params.timing.tPoll (emit (.sample .low) (takeAnswer s))

/-- The state after `p` `Low` samples of the poll, each with its delay. -/
def afterLowPolls : Nat → State → State
  | 0, s => s
  | p + 1, s => afterLowPolls p (afterLowPoll s)

/-- The state after `p` `Low` samples of the poll and the `High` one. -/
def afterPoll (s : State) (p : Nat) : State := emit (.sample .high) (takeAnswer (afterLowPolls p s))

/-- What the `Low` samples leave alone, what they add to the trace, and the coming faults. -/
theorem afterLowPolls_spec (p : Nat) : ∀ s : State,
    (afterLowPolls p s).search = s.search ∧ (afterLowPolls p s).port = s.port ∧ (afterLowPolls p s).host = s.host ∧
      (afterLowPolls p s).params = s.params ∧ (afterLowPolls p s).draws = s.draws ∧
      (afterLowPolls p s).pin = { s.pin with
        trace := s.pin.trace ++ (List.replicate p [Event.sample .low, .delay s.params.timing.tPoll]).flatten } ∧
      (afterLowPolls p s).env.script = s.env.script.drop p ∧ (afterLowPolls p s).env.asked = s.env.asked + p ∧
      (∀ k, (afterLowPolls p s).env.faultAt k = s.env.faultAt (p + k)) ∧
      ∀ k dr kind, kind ≠ .read → (afterLowPolls p s).env.levelAt k dr kind = s.env.levelAt (p + k) dr kind := by
  induction p with
  | zero => simp [afterLowPolls]
  | succ p ih =>
    intro s
    obtain ⟨h1, h2, h3, h4, h5, h6, h7, h8, h9, h10⟩ := ih (afterLowPoll s)
    refine ⟨h1, h2, h3, h4, h5, ?_, ?_, ?_, fun k => ?_, fun k dr kind hk => ?_⟩
    · rw [afterLowPolls, h6]
      simp [afterLowPoll, emit, delay, takeAnswer, List.replicate_succ]
    · rw [afterLowPolls, h7]
      simp [afterLowPoll, Env.answered]
    · rw [afterLowPolls, h8]
      simp [afterLowPoll, Env.answered, Nat.add_comm, Nat.add_left_comm]
    · rw [afterLowPolls, h9, afterLowPoll, hold_faultAt]
      simp [Nat.add_right_comm]
    · rw [afterLowPolls, h10 k dr kind hk, afterLowPoll, hold_levelAt _ _ _ _ _ hk]
      simp [Nat.add_right_comm]

theorem afterPoll_env_faultAt (s : State) (p k : Nat) :
    (afterPoll s p).env.faultAt k = s.env.faultAt (p + 1 + k) := by
  obtain ⟨-, -, -, -, -, -, -, -, h, -⟩ := afterLowPolls_spec p s
  simp [afterPoll, h]
  congr 1
  omega

theorem afterPoll_levelAt (s : State) (p k : Nat) (dr : Drive) {kind : SampleKind} (hk : kind ≠ .read) :
    (afterPoll s p).env.levelAt k dr kind = s.env.levelAt (p + 1 + k) dr kind := by
  obtain ⟨-, -, -, -, -, -, -, -, -, h⟩ := afterLowPolls_spec p s
  simp [afterPoll, h _ _ _ hk]
  congr 1
  omega

/-- What the poll leaves alone, and what it adds to the trace. -/
theorem afterPoll_spec (s : State) (p : Nat) :
    (afterPoll s p).search = s.search ∧ (afterPoll s p).port = s.port ∧ (afterPoll s p).host = s.host ∧
      (afterPoll s p).params = s.params ∧ (afterPoll s p).draws = s.draws ∧
      (afterPoll s p).pin = { s.pin with trace := s.pin.trace ++ pollEvents s.params.timing p } := by
  obtain ⟨h1, h2, h3, h4, h5, h6, -⟩ := afterLowPolls_spec p s
  exact ⟨h1, h2, h3, h4, h5, by simp [afterPoll, emit, h6, pollEvents, takeAnswer]⟩

/-- The poll, not faulted, of a line that is low `p` times and then high. -/
theorem pollIdle_idle (p : Nat) : ∀ (n : Nat) (s : State), p < n →
    (∀ k, k < p → s.env.levelAt k s.pin.drive .poll = .low) → s.env.levelAt p s.pin.drive .poll = .high →
    s.env.Unfaulted (p + 1) → pollIdle n s = .ok () (afterPoll s p) := by
  induction p with
  | zero =>
    intro n s hn _ hh hu
    obtain ⟨n, rfl⟩ : ∃ m, n = m + 1 := ⟨n - 1, by omega⟩
    rw [pollIdle, pinSample_unfaulted _ (hu 0 (by omega)), andThen_ok, hh]
    rfl
  | succ p ih =>
    intro n s hn hl hh hu
    obtain ⟨n, rfl⟩ : ∃ m, n = m + 1 := ⟨n - 1, by omega⟩
    rw [pollIdle, pinSample_unfaulted _ (hu 0 (by omega)), andThen_ok, hl 0 (by omega)]
    refine ih n (afterLowPoll s) (by omega) (fun k hk => ?_) ?_ (fun k hk => ?_)
    · rw [afterLowPoll, hold_levelAt _ _ _ _ _ (by decide)]
      simpa using hl (k + 1) (by omega)
    · rw [afterLowPoll, hold_levelAt _ _ _ _ _ (by decide)]
      simpa using hh
    · rw [afterLowPoll, hold_faultAt]
      simpa using hu (k + 1) (by omega)

/-- The poll, not faulted, of a line that stays low. -/
theorem pollIdle_low : ∀ (n : Nat) (s : State),
    (∀ k, k < n → s.env.levelAt k s.pin.drive .poll = .low) → s.env.Unfaulted n →
    pollIdle n s = .raised .busNotHigh (afterLowPolls n s) := by
  intro n
  induction n with
  | zero => intro s _ _; rfl
  | succ n ih =>
    intro s hl hu
    rw [pollIdle, pinSample_unfaulted _ (hu 0 (by omega)), andThen_ok, hl 0 (by omega)]
    refine ih (afterLowPoll s) (fun k hk => ?_) (fun k hk => ?_)
    · rw [afterLowPoll, hold_levelAt _ _ _ _ _ (by decide)]
      simpa using hl (k + 1) (by omega)
    · rw [afterLowPoll, hold_faultAt]
      simpa using hu (k + 1) (by omega)

/-- The reset pulse and what follows it, not faulted: one complete reset slot, whose presence sample decides between
success and `UnexpectedResponse`. -/
theorem busReset_idle {s : State} {p : Nat} (hi : LineIdle s p) (hu : s.env.Unfaulted (p + 4)) :
    busReset s =
      if presentFlag (s.env.levelAt (p + 3) .released .presence)
      then .ok () (afterSlot (afterPoll s p) (.reset true))
      else .raised .unexpectedResponse (afterSlot (afterPoll s p) (.reset false)) := by
  obtain ⟨hn, hl, hh⟩ := hi
  have h1 : (afterPoll s p).env.faultAt 0 = none := by rw [afterPoll_env_faultAt]; exact hu _ (by omega)
  have h2 : (afterPoll s p).env.faultAt 1 = none := by rw [afterPoll_env_faultAt]; exact hu _ (by omega)
  have h3 : (afterPoll s p).env.faultAt 2 = none := by rw [afterPoll_env_faultAt]; exact hu _ (by omega)
  have hl3 : (afterPoll s p).env.levelAt 2 .released .presence = s.env.levelAt (p + 3) .released .presence :=
    afterPoll_levelAt s p 2 _ (by decide)
  unfold busReset
  rw [pollIdle_idle p _ s hn hl hh (fun k hk => hu k (by omega)), andThen_ok]
  generalize afterPoll s p = t at h1 h2 h3 hl3 ⊢
  rw [← hl3, pinLow_unfaulted h1, andThen_ok, pinRelease_unfaulted (by simpa using h2), andThen_ok,
    pinSample_unfaulted _ (by simpa using h3), andThen_ok]
  have hlv : ∀ us us', (delay us' (setDrive .released (takeAnswer (hold 0 us (setDrive .low (takeAnswer t)))))).env.levelAt
      0 (delay us' (setDrive .released (takeAnswer (hold 0 us (setDrive .low (takeAnswer t)))))).pin.drive .presence =
        t.env.levelAt 2 .released .presence := by
    intro us us'
    simp [levelAt_pass _ _ _ _ _ (show SampleKind.presence ≠ .read by decide),
      hold_levelAt _ _ _ _ _ (show SampleKind.presence ≠ .read by decide)]
  rw [hlv]
  clear hlv hl3 h1 h2 h3
  generalize t.env.levelAt 2 .released .presence = l
  obtain ⟨search, ⟨drive, crit, trace, slots⟩, port, host, ⟨script, asked, remote, ticks, elapsedUs, lowUs⟩, params,
    draws⟩ := t
  cases l <;> cases drive <;>
    simp [afterSlot, slotDone, setDrive, hold, lowPulse, delay, emit, Slot.events, slotPrimitives, slotLowUs,
      Slot.lowUs, takeAnswer, Env.answered, Env.advance, Env.pass, Env.driven,
      Env.isPulse, slotEnv, slotRests, Function.comp_def, afterWait_afterLow, ← List.drop_one, Nat.add_assoc] <;>
    exact afterSlot_hold remote _ (.inr (.inr ⟨_, rfl⟩))

end Sys2Proof.Machine
end

