-- ==== Sys2Proof/Laws/Frame.lean ====
section
/-! SUPPORT. What the sub-operations leave alone, however they end: the ports, the host's side, the parameters and the
addresses of the devices always; the SearchState too, outside a search. -/

namespace Sys2Proof.Machine

/-- The addresses of the attached devices. -/
def attached (s : State) : Option (List Address) := s.env.remote.map fun m => m.map Device.rom

/-- The ports, the host's side, the parameters and the attached addresses are as they were, and no conversion has come
past its bound. -/
structure Leaves (s t : State) : Prop where
  port   : t.port = s.port
  host   : t.host = s.host
  params : t.params = s.params
  roms   : attached t = attached s
  bound  : s.env.Bounded → t.env.Bounded

/-- Besides, the SearchState is as it was. -/
structure LineOnly (s t : State) : Prop extends Leaves s t where
  search : t.search = s.search
  draws  : t.draws = s.draws

theorem Leaves.refl {s : State} : Leaves s s := ⟨Eq.refl _, Eq.refl _, Eq.refl _, Eq.refl _, id⟩
theorem Leaves.trans {s t u : State} (h : Leaves s t) (g : Leaves t u) : Leaves s u :=
  ⟨g.port.trans h.port, g.host.trans h.host, g.params.trans h.params, g.roms.trans h.roms,
    fun hb => g.bound (h.bound hb)⟩
theorem LineOnly.refl {s : State} : LineOnly s s := ⟨.refl, Eq.refl _, Eq.refl _⟩
theorem LineOnly.trans {s t u : State} (h : LineOnly s t) (g : LineOnly t u) : LineOnly s u :=
  ⟨h.toLeaves.trans g.toLeaves, g.search.trans h.search, g.draws.trans h.draws⟩

/-- Canonical memory is a matter of the addresses, so it is kept. -/
theorem Leaves.wf {s t : State} (h : Leaves s t) (hs : ∀ m, s.env.remote = some m → Memory.wf m) :
    ∀ m, t.env.remote = some m → Memory.wf m := by
  intro m hm
  have hr := h.roms
  cases hs' : s.env.remote with
  | none => simp [attached, hm, hs'] at hr
  | some m' =>
    simp only [attached, hm, hs', Option.map_some, Option.some.injEq] at hr
    have := hs m' hs'
    have hp : (m'.map Device.rom).Pairwise fun a b => a.toNat < b.toNat := by
      simpa [Memory.wf, List.pairwise_map] using this
    rw [← hr] at hp
    simpa [Memory.wf, List.pairwise_map] using hp

/-! ## Bounds of conversions -/

/-- Whatever was before, when time has passed no conversion is past its bound. -/
theorem bounded_pass (e : Env) (dr : Drive) (us : Nat) : (e.pass dr us).Bounded := by
  intro m d c due hm hd hc hdue
  simp only [pass_remote, Option.map_eq_some_iff] at hm
  obtain ⟨m₀, -, rfl⟩ := hm
  obtain ⟨d₀, -, rfl⟩ := List.mem_map.mp hd
  exact tickDevice_bounded hc hdue

theorem bounded_afterLow {e : Env} (pulse : Bool) (h : e.Bounded) :
    ({ e with remote := e.remote.map fun m => Memory.afterLow m pulse } : Env).Bounded := by
  intro m d c due hm hd hc hdue
  simp only [Option.map_eq_some_iff] at hm
  obtain ⟨m₀, hm₀, rfl⟩ := hm
  obtain ⟨d₀, hd₀, rfl⟩ := List.mem_map.mp hd
  refine h m₀ d₀ c due hm₀ hd₀ ?_ hdue
  cases pulse <;> exact hc

theorem bounded_afterSlot {e : Env} (pulse : Bool) (slot : Slot) (h : e.Bounded) :
    ({ e with remote := e.remote.map fun m => Memory.afterSlot m e.elapsedUs pulse slot } : Env).Bounded := by
  intro m d c due hm hd hc hdue
  simp only [Option.map_eq_some_iff] at hm
  obtain ⟨m₀, hm₀, rfl⟩ := hm
  obtain ⟨d₀, hd₀, rfl⟩ := List.mem_map.mp hd
  rcases onSlot_converting e.elapsedUs pulse slot d₀ with ho | ⟨cfg, ho⟩
  · exact h m₀ d₀ c due hm₀ hd₀ (ho ▸ hc) hdue
  · rw [ho, Option.some.injEq] at hc
    subst hc
    exact lt_due hdue

/-! ## Updates -/

theorem lineOnly_emit (ev : Event) (s : State) : LineOnly s (emit ev s) := ⟨⟨rfl, rfl, rfl, rfl, id⟩, rfl, rfl⟩
theorem lineOnly_delay (us : Nat) (s : State) : LineOnly s (delay us s) := by
  refine ⟨⟨rfl, rfl, rfl, ?_, fun _ => bounded_pass _ _ _⟩, rfl, rfl⟩
  simp only [attached, delay_env, pass_remote, Option.map_map]
  congr 1
  funext m
  exact afterWait_roms m _ _
theorem lineOnly_lowPulse (own : Nat) (s : State) : LineOnly s (lowPulse own s) := by
  refine ⟨⟨rfl, rfl, rfl, ?_, fun h => bounded_afterLow _ h⟩, rfl, rfl⟩
  simp only [attached, lowPulse_env_remote, Option.map_map]
  congr 1
  funext m
  exact afterLow_roms m _
theorem lineOnly_critEnter (s : State) : LineOnly s (critEnter s) := ⟨⟨rfl, rfl, rfl, rfl, id⟩, rfl, rfl⟩
theorem lineOnly_critExit (s : State) : LineOnly s (critExit s) := ⟨⟨rfl, rfl, rfl, rfl, id⟩, rfl, rfl⟩
theorem lineOnly_takeAnswer (s : State) : LineOnly s (takeAnswer s) := ⟨⟨rfl, rfl, rfl, rfl, id⟩, rfl, rfl⟩
theorem lineOnly_hold (own us : Nat) (s : State) : LineOnly s (hold own us s) :=
  (lineOnly_delay us s).trans (lineOnly_lowPulse own _)
theorem lineOnly_setDrive (d : Drive) (s : State) : LineOnly s (setDrive d s) := by
  cases d <;> exact ⟨⟨rfl, rfl, rfl, rfl, id⟩, rfl, rfl⟩
theorem lineOnly_slotDone (slot : Slot) (s : State) : LineOnly s (slotDone slot s) := by
  refine ⟨⟨rfl, rfl, rfl, ?_, fun h => bounded_afterSlot _ _ h⟩, rfl, rfl⟩
  simp only [attached, slotDone_env_remote, Option.map_map]
  congr 1
  funext m
  exact afterSlot_roms m _ _ _

theorem lineOnly_elapse (ms : Nat) (s : State) : LineOnly s (elapse ms s) := by
  refine ⟨⟨rfl, rfl, rfl, ?_, fun _ => bounded_afterLow _ (bounded_pass _ _ _)⟩, rfl, rfl⟩
  simp only [attached, elapse_env_remote, Option.map_map]
  congr 1
  funext m
  exact (afterLow_roms _ _).trans (afterWait_roms m _ _)

theorem leaves_setSearch (c : SearchState) (s : State) : Leaves s (setSearch c s) := ⟨rfl, rfl, rfl, rfl, id⟩
theorem leaves_drawSearch (s : State) : Leaves s (drawSearch s) := ⟨rfl, rfl, rfl, rfl, id⟩

/-! ## Chains -/

theorem lineOnly_andThen {α β : Type} {s : State} {x : Result α} {f : α → State → Result β}
    (hx : LineOnly s x.final) (hf : ∀ a t, LineOnly t (f a t).final) : LineOnly s (x.andThen f).final :=
  final_andThen hx fun a t _ h => h.trans (hf a t)

theorem leaves_andThen {α β : Type} {s : State} {x : Result α} {f : α → State → Result β}
    (hx : Leaves s x.final) (hf : ∀ a t, Leaves t (f a t).final) : Leaves s (x.andThen f).final :=
  final_andThen hx fun a t _ h => h.trans (hf a t)

/-! ## The signaling layer -/

theorem lineOnly_primitive {kind : Option SampleKind} {effect : Level → State → State}
    (he : ∀ l s, LineOnly s (effect l s)) (s : State) : LineOnly s (primitive kind effect s).final := by
  unfold primitive
  split
  · exact lineOnly_takeAnswer s
  · exact (lineOnly_takeAnswer s).trans (he _ _)

theorem lineOnly_pinLow (s : State) : LineOnly s (pinLow s).final :=
  lineOnly_andThen (lineOnly_primitive (fun _ => lineOnly_setDrive .low) s) fun _ _ => .refl
theorem lineOnly_pinRelease (s : State) : LineOnly s (pinRelease s).final :=
  lineOnly_andThen (lineOnly_primitive (fun _ => lineOnly_setDrive .released) s) fun _ _ => .refl
theorem lineOnly_pinSample (k : SampleKind) (s : State) : LineOnly s (pinSample k s).final :=
  lineOnly_primitive (fun _ => lineOnly_emit _) s

theorem lineOnly_pollIdle (n : Nat) : ∀ s : State, LineOnly s (pollIdle n s).final := by
  induction n with
  | zero => exact fun s => .refl
  | succ n ih =>
    refine fun s => lineOnly_andThen (lineOnly_pinSample .poll s) fun l t => ?_
    cases l
    · exact (lineOnly_hold _ _ t).trans (ih _)
    · exact .refl

theorem lineOnly_busReset (s : State) : LineOnly s (busReset s).final := by
  refine lineOnly_andThen (lineOnly_pollIdle _ s) fun _ s => ?_
  refine lineOnly_andThen (lineOnly_pinLow s) fun _ s => ?_
  refine lineOnly_andThen ((lineOnly_hold _ _ s).trans (lineOnly_pinRelease _)) fun _ s => ?_
  refine lineOnly_andThen ((lineOnly_delay _ s).trans (lineOnly_pinSample _ _)) fun l s => ?_
  cases l <;> exact (lineOnly_delay _ s).trans (lineOnly_slotDone _ _)

theorem lineOnly_writeBit (b : Bool) (s : State) : LineOnly s (writeBit b s).final := by
  refine lineOnly_andThen ((lineOnly_critEnter s).trans (lineOnly_pinLow _)) fun _ s => ?_
  refine lineOnly_andThen ((lineOnly_hold _ _ s).trans (lineOnly_pinRelease _)) fun _ s => ?_
  exact (lineOnly_critExit s).trans ((lineOnly_delay _ _).trans (lineOnly_slotDone _ _))

theorem lineOnly_readBit (s : State) : LineOnly s (readBit s).final := by
  refine lineOnly_andThen ((lineOnly_critEnter s).trans (lineOnly_pinLow _)) fun _ s => ?_
  refine lineOnly_andThen ((lineOnly_hold _ _ s).trans (lineOnly_pinRelease _)) fun _ s => ?_
  refine lineOnly_andThen ((lineOnly_delay _ s).trans (lineOnly_pinSample _ _)) fun l s => ?_
  exact (lineOnly_critExit s).trans ((lineOnly_delay _ _).trans (lineOnly_slotDone _ _))

theorem lineOnly_writeBits (bs : List Bool) : ∀ s : State, LineOnly s (writeBits bs s).final := by
  induction bs with
  | nil => exact fun s => .refl
  | cons b bs ih => exact fun s => lineOnly_andThen (lineOnly_writeBit b s) fun _ => ih

theorem lineOnly_writeByte (v : Byte) (s : State) : LineOnly s (writeByte v s).final := lineOnly_writeBits _ s

theorem lineOnly_writeBytes (vs : List Byte) : ∀ s : State, LineOnly s (writeBytes vs s).final := by
  induction vs with
  | nil => exact fun s => .refl
  | cons v vs ih => exact fun s => lineOnly_andThen (lineOnly_writeByte v s) fun _ => ih

theorem lineOnly_readBits (n : Nat) : ∀ (k : Nat) (v : Byte) (s : State), LineOnly s (readBits n k v s).final := by
  induction n with
  | zero => exact fun k v s => .refl
  | succ n ih => exact fun k v s => lineOnly_andThen (lineOnly_readBit s) fun _ => ih _ _

theorem lineOnly_readByte (s : State) : LineOnly s (readByte s).final := lineOnly_readBits _ _ _ s

theorem lineOnly_readBytes (n : Nat) : ∀ s : State, LineOnly s (readBytes n s).final := by
  induction n with
  | zero => exact fun s => .refl
  | succ n ih =>
    exact fun s => lineOnly_andThen (lineOnly_readByte s) fun _ t => lineOnly_andThen (ih t) fun _ _ => .refl

/-! ## The ROM layer and the driver -/

theorem lineOnly_matchRom (a : Address) (s : State) : LineOnly s (matchRom a s).final :=
  lineOnly_andThen (lineOnly_writeByte _ s) fun _ => lineOnly_writeBytes _

theorem lineOnly_select (t : Target) (s : State) : LineOnly s (select t s).final := by
  cases t
  · exact lineOnly_writeByte _ s
  · exact lineOnly_matchRom _ s

theorem lineOnly_sendCommand (t : Target) (c : Byte) (s : State) : LineOnly s (sendCommand t c s).final :=
  lineOnly_andThen (lineOnly_busReset s) fun _ s =>
    lineOnly_andThen (lineOnly_select t s) fun _ => lineOnly_writeByte c

theorem lineOnly_checkCrc (bytes : List Byte) (s : State) : LineOnly s (checkCrc bytes s).final := by
  unfold checkCrc
  split <;> exact .refl

theorem lineOnly_checkFamily (a : Address) (s : State) : LineOnly s (checkFamily a s).final := by
  unfold checkFamily
  split <;> exact .refl

theorem lineOnly_readScratchpad (a : Address) (s : State) : LineOnly s (readScratchpad a s).final :=
  lineOnly_andThen (lineOnly_checkFamily a s) fun _ s =>
    lineOnly_andThen (lineOnly_sendCommand _ _ s) fun _ s =>
      lineOnly_andThen (lineOnly_readBytes 9 s) fun sp s =>
        lineOnly_andThen (lineOnly_checkCrc sp s) fun _ _ => .refl

theorem lineOnly_writeScratchpad (a : Address) (th tl cfg : Byte) (s : State) :
    LineOnly s (writeScratchpad a th tl cfg s).final :=
  lineOnly_andThen (lineOnly_checkFamily a s) fun _ s =>
    lineOnly_andThen (lineOnly_sendCommand _ _ s) fun _ => lineOnly_writeBytes _

theorem lineOnly_getResolution (a : Address) (s : State) : LineOnly s (getResolution a s).final := by
  refine lineOnly_andThen (lineOnly_readScratchpad a s) fun sp s => ?_
  split <;> exact .refl

theorem lineOnly_setResolution (a : Address) (r : Resolution) (s : State) :
    LineOnly s (setResolution a r s).final :=
  lineOnly_andThen (lineOnly_readScratchpad a s) fun _ => lineOnly_writeScratchpad _ _ _ _

theorem lineOnly_startMeasurement (t : Target) (s : State) : LineOnly s (startMeasurement t s).final := by
  refine lineOnly_andThen ?_ fun _ => lineOnly_sendCommand _ _
  cases t
  · exact .refl
  · exact lineOnly_checkFamily _ s

theorem lineOnly_readTemp (a : Address) (r : Resolution) (s : State) : LineOnly s (readTemp a r s).final :=
  lineOnly_andThen (lineOnly_readScratchpad a s) fun _ _ => .refl

theorem lineOnly_readScratchpadPiece (s : State) : LineOnly s (readScratchpadPiece s).final :=
  lineOnly_andThen (lineOnly_writeByte _ s) fun _ => lineOnly_readBytes 9

theorem lineOnly_writeScratchpadPiece (th tl cfg : Byte) (s : State) :
    LineOnly s (writeScratchpadPiece th tl cfg s).final :=
  lineOnly_andThen (lineOnly_writeByte _ s) fun _ => lineOnly_writeBytes _

/-! ## A search writes the SearchState and nothing else of these -/

theorem leaves_searchWalk (n : Nat) : ∀ (lastZero : Nat) (s : State), Leaves s (searchWalk n lastZero s).final := by
  induction n with
  | zero => exact fun _ s => .refl
  | succ n ih =>
    refine fun lastZero s => leaves_andThen (lineOnly_readBit s).toLeaves fun idBit s => ?_
    refine leaves_andThen (lineOnly_readBit s).toLeaves fun cmpBit s => ?_
    split
    · exact .refl
    · refine leaves_andThen ?_ fun _ => ih _
      exact (leaves_setSearch _ s).trans (lineOnly_writeBit _ _).toLeaves

theorem leaves_searchEnd (walked : Option Nat) (s : State) : Leaves s (searchEnd walked s).final := by
  unfold searchEnd
  split
  · exact leaves_setSearch _ s
  · dsimp only
    split <;> exact leaves_setSearch _ s

theorem leaves_searchPass (s : State) : Leaves s (searchPass s).final :=
  leaves_andThen (lineOnly_writeByte _ s).toLeaves fun _ s =>
    leaves_andThen (leaves_searchWalk 64 0 s) leaves_searchEnd

theorem leaves_searchExit {α : Type} {s : State} {x : Result α} (h : Leaves s x.final) :
    Leaves s (searchExit x).final := by
  cases x with
  | ok a t => exact h
  | raised e t =>
    simp only [searchExit, final_raised]
    split
    · exact h.trans (leaves_drawSearch t)
    · exact h

theorem leaves_search (s : State) : Leaves s (search s).final := by
  unfold search
  split
  · exact leaves_setSearch _ s
  · exact leaves_searchExit (leaves_andThen (lineOnly_busReset s).toLeaves fun _ => leaves_searchPass)

/-! ## Whole operations -/

/-- The state a whole operation ends in: its final state, a critical section closed if one was open, with the
response delivered. -/
theorem finish_spec {α : Type} (mk : α → Response) (x : Result α) :
    ∃ r u, finish mk x = respond r u ∧ (u = x.final ∨ u = critExit x.final) := by
  cases x with
  | ok a s => exact ⟨_, _, rfl, .inl rfl⟩
  | raised e s =>
    refine ⟨_, _, rfl, ?_⟩
    split
    · exact .inr rfl
    · exact .inl rfl

/-- A whole operation over a sub-operation that touches the line only. -/
theorem operate_kept {α : Type} (mk : α → Response) {op : State → Result α} {s t : State}
    (hop : ∀ s, LineOnly s (op s).final) (h : operate mk op s = .next t) : Kept s t := by
  obtain ⟨r, u, hu, hf⟩ := finish_spec mk (op (accept s))
  have hl := hop (accept s)
  simp only [operate, hu, Host.Outcome.next.injEq] at h
  subst h
  rcases hf with rfl | rfl <;> exact ⟨hl.search, hl.draws, hl.host, hl.params⟩

end Sys2Proof.Machine
end

