-- ==== Sys2Proof/Laws/Commands.lean ====
section
/-! SUPPORT. Bytes read, selections and commands: the slots each makes when the environment does not fault it. -/

namespace Sys2Proof.Machine

/-! ## Bytes read -/

/-- The byte that bits read from position `k` on make of `v`. -/
def assemble : Nat → Byte → List Bool → Byte
  | _, v, [] => v
  | k, v, b :: bs => assemble (k + 1) (setBit v k b) bs

/-- Eight bits assembled from zero are the bits of the byte, bit 0 first (R104). -/
theorem bitsOf_assemble (bs : List Bool) (h : bs.length = 8) : bitsOf (assemble 0 0 bs) = bs := by
  match bs, h with
  | [a, b, c, d, e, f, g, i], _ => revert a b c d e f g i; decide

theorem readBits_unfaulted (n : Nat) : ∀ (k : Nat) (v : Byte) (s : State), s.env.Unfaulted (3 * n) →
    ∃ bs, bs.length = n ∧ readBits n k v s = .ok (assemble k v bs) (afterSlots s (bs.map .read)) := by
  induction n with
  | zero => exact fun k v s _ => ⟨[], rfl, rfl⟩
  | succ n ih =>
    intro k v s h
    obtain ⟨b, hb⟩ := readBit_ok (s := s) fun i hi => h i (by omega)
    obtain ⟨bs, hl, hbs⟩ := ih (k + 1) (setBit v k b) (afterSlot s (.read b)) (by
      intro i hi
      rw [afterSlot_faultAt]
      exact h _ (by simp [slotPrimitives]; omega))
    exact ⟨b :: bs, by simp [hl], by rw [readBits, hb, andThen_ok, hbs]; rfl⟩

/-- READ_BYTE, not faulted, is `R8(v)` of the byte it yields. -/
theorem readByte_unfaulted {s : State} (h : s.env.Unfaulted 24) :
    ∃ v, readByte s = .ok v (afterSlots s (r8 v)) := by
  obtain ⟨bs, hl, hbs⟩ := readBits_unfaulted 8 0 0 s (by simpa using h)
  exact ⟨_, by rw [readByte, hbs, r8, bitsOf_assemble bs hl]⟩

theorem slotPrimitives_r8 (v : Byte) : ((r8 v).map slotPrimitives).sum = 24 := by
  simp [r8, bitsOf, List.range_succ, slotPrimitives]

/-- Bytes read, not faulted, are their `R8` in order. -/
theorem readBytes_unfaulted (n : Nat) : ∀ {s : State}, s.env.Unfaulted (24 * n) →
    ∃ vs, vs.length = n ∧ readBytes n s = .ok vs (afterSlots s (vs.flatMap r8)) := by
  induction n with
  | zero => exact fun _ => ⟨[], rfl, rfl⟩
  | succ n ih =>
    intro s h
    obtain ⟨v, hv⟩ := readByte_unfaulted (s := s) fun i hi => h i (by omega)
    obtain ⟨vs, hl, hvs⟩ := ih (s := afterSlots s (r8 v)) (by
      intro i hi
      rw [afterSlots_faultAt, slotPrimitives_r8]
      exact h _ (by omega))
    exact ⟨v :: vs, by simp [hl], by rw [readBytes, hv, andThen_ok, hvs, andThen_ok, List.flatMap_cons,
      afterSlots_append]⟩

/-! ## Primitives of a byte stream -/

theorem slotPrimitives_w8s (vs : List Byte) : ((vs.flatMap w8).map slotPrimitives).sum = 16 * vs.length := by
  induction vs with
  | nil => rfl
  | cons v vs ih => simp [slotPrimitives_w8, ih]; omega

theorem slotPrimitives_r8s (vs : List Byte) : ((vs.flatMap r8).map slotPrimitives).sum = 24 * vs.length := by
  induction vs with
  | nil => rfl
  | cons v vs ih => simp [slotPrimitives_r8, ih]; omega

@[simp] theorem addressBytes_length (a : Address) : (addressBytes a).length = 8 := by simp [addressBytes, bytesOf]

theorem slotPrimitives_matchSlots (a : Address) : ((matchSlots a).map slotPrimitives).sum = 144 := by
  rw [matchSlots, List.map_append, List.sum_append, slotPrimitives_w8, slotPrimitives_w8s, addressBytes_length]

/-! ## Selections -/

/-- The match selection, not faulted, is its nine bytes. -/
theorem matchRom_unfaulted {s : State} (a : Address) (h : s.env.Unfaulted 144) :
    matchRom a s = .ok () (afterSlots s (matchSlots a)) := by
  rw [matchRom, writeByte_unfaulted _ (fun k hk => h k (by omega)), andThen_ok, writeBytes_unfaulted, matchSlots,
    afterSlots_append]
  intro k hk
  rw [afterSlots_faultAt, slotPrimitives_w8]
  exact h _ (by simp at hk; omega)

/-- The slots of a selection (`30_encoding.md` R86). -/
def Target.slots : Target → List Slot
  | .skip => w8 Config.cmdSkipRom
  | .device a => matchSlots a

/-- The primitives of a selection. -/
def Target.primitives : Target → Nat
  | .skip => 16
  | .device _ => 144

theorem slotPrimitives_target (t : Target) : (t.slots.map slotPrimitives).sum = t.primitives := by
  cases t
  · exact slotPrimitives_w8 _
  · exact slotPrimitives_matchSlots _

theorem select_unfaulted {s : State} (t : Target) (h : s.env.Unfaulted t.primitives) :
    select t s = .ok () (afterSlots s t.slots) := by
  cases t
  · exact writeByte_unfaulted _ h
  · exact matchRom_unfaulted _ h

/-! ## Commands -/

/-- The faults that are still to come after the poll and a reset slot. -/
theorem afterPoll_reset_faultAt (s : State) (p : Nat) (present : Bool) (k : Nat) :
    (afterSlot (afterPoll s p) (.reset present)).env.faultAt k = s.env.faultAt (p + 4 + k) := by
  rw [afterSlot_faultAt]
  rw [afterPoll_env_faultAt]
  simp only [slotPrimitives]
  congr 1
  omega

/-- SEND_COMMAND on a ready line, not faulted: the poll, a reset slot, the selection and the command byte. -/
theorem sendCommand_ready {s : State} {p n : Nat} (t : Target) (c : Byte) (h : LineReady s p n)
    (hn : t.primitives + 20 ≤ n) :
    sendCommand t c s =
      .ok () (afterSlots (afterSlot (afterPoll s p) (.reset true)) (t.slots ++ w8 c)) := by
  obtain ⟨hi, hp, hu⟩ := h
  rw [sendCommand, busReset_idle hi (fun k hk => hu k (by omega)), hp, presentFlag_low, if_pos rfl, andThen_ok,
    select_unfaulted, andThen_ok, writeByte_unfaulted, afterSlots_append]
  · intro k hk
    rw [afterSlots_faultAt, afterPoll_reset_faultAt, slotPrimitives_target]
    exact hu _ (by omega)
  · intro k hk
    rw [afterPoll_reset_faultAt]
    exact hu _ (by omega)

/-- SEND_COMMAND with no device: the error after the reset slot, and nothing written. -/
theorem sendCommand_absent {s : State} {p : Nat} (t : Target) (c : Byte) (hi : LineIdle s p)
    (hp : s.env.levelAt (p + 3) .released .presence = .high) (hu : s.env.Unfaulted (p + 4)) :
    sendCommand t c s = .raised .unexpectedResponse (afterSlot (afterPoll s p) (.reset false)) := by
  rw [sendCommand, busReset_idle hi hu, hp]
  rfl

end Sys2Proof.Machine
end

