-- ==== Sys2Proof/Laws/Decode.lean ====
section
/-! SUPPORT. The fields of a request word: packing and unpacking, and the operation code each encoding carries. -/

namespace Sys2Proof

/-- The fields of a packed word are the ones it was packed from. -/
@[simp] theorem ofWord_toWord (x : Fields) : Fields.ofWord x.toWord = x := by
  obtain ⟨op, tgt, r1, d0, d1, d2, r2, a⟩ := x
  simp only [Fields.ofWord, Fields.toWord, Fields.mk.injEq]
  refine ⟨?_, ?_, ?_, ?_, ?_, ?_, ?_, ?_⟩ <;> ext i hi <;>
    simp only [BitVec.getElem_extractLsb', BitVec.getLsbD_append] <;>
    grind

/-- A word is packed from its fields. -/
@[simp] theorem toWord_ofWord (w : RequestWord) : (Fields.ofWord w).toWord = w := by
  simp only [Fields.ofWord, Fields.toWord]
  ext i hi
  simp only [← BitVec.getLsbD_eq_getElem, BitVec.getLsbD_append, BitVec.getLsbD_extractLsb']
  grind

/-- Two requests with the same fields are the same word. -/
theorem ofWord_injective {w w' : RequestWord} (h : Fields.ofWord w = Fields.ofWord w') : w = w' := by
  rw [← toWord_ofWord w, h, toWord_ofWord]

/-- The fields of an encoded request. -/
@[simp] theorem ofWord_requestWord (op : Byte) (f : Form) (d0 d1 d2 : Byte) (a : Address) :
    Fields.ofWord (requestWord op f d0 d1 d2 a) =
      { op := op, tgt := f.tgt, reserved1 := 0, d0 := d0, d1 := d1, d2 := d2, reserved2 := 0, addr := a } := by
  simp [requestWord]

@[simp] theorem ofCode_code (r : Resolution) : Resolution.ofCode r.code = r := by cases r <;> rfl
@[simp] theorem code_ofCode (c : BitVec 2) : (Resolution.ofCode c).code = c := by revert c; decide

end Sys2Proof
end

