-- ==== Sys2Proof/Laws/PerInstr.lean ====
section
/-! SUPPORT. Statements made instruction by instruction: the family `OpCode`, that the word of each operation begins with
the code the opcode table gives its row. -/

namespace Sys2Proof.Laws.OpCode

/-- The first byte of a code: `op` of a request (`30_encoding.md` R70), the command of a wire piece. -/
def firstByte : Code → Byte
  | .request w => w.extractLsb' 0 8
  | .wire w => w.extractLsb' 0 8

/-- The code of each operation's row (`30_encoding.md` R72, R80, R81). -/
def rowByte : Instr → Byte
  | .reset => 0x01
  | .writeBit _ => 0x02
  | .readBit => 0x03
  | .writeByte _ => 0x04
  | .readByte => 0x05
  | .sendCommandSkip _ => 0x10
  | .sendCommandMatch _ _ => 0x10
  | .search => 0x11
  | .searchReset => 0x12
  | .crcCheckAddr _ => 0x20
  | .readScratchpad _ => 0x31
  | .writeScratchpad _ _ _ _ => 0x32
  | .getResolution _ => 0x33
  | .setResolution _ _ => 0x34
  | .startMeasurementSkip => 0x35
  | .startMeasurementMatch _ => 0x35
  | .readTemp _ _ => 0x36
  | .measure _ _ => 0x37
  | .cmdMatchRom _ => 0x55
  | .cmdSkipRom => 0xCC
  | .cmdSearchRom => 0xF0
  | .cmdConvertT => 0x44
  | .cmdReadScratchpad => 0xBE
  | .cmdWriteScratchpad _ _ _ => 0x4E
  | .cmdCopyScratchpad => 0x48
  | .cmdRecallE2 => 0xB8

/-- The word of the operation begins with its row's code. -/
def Statement (i : Instr) : Prop := firstByte (encode i) = rowByte i

/-- A request begins with its operation code. -/
theorem firstByte_request (op : Byte) (f : Form) (d0 d1 d2 : Byte) (a : Address) :
    firstByte (.request (requestWord op f d0 d1 d2 a)) = op :=
  congrArg Fields.op (ofWord_requestWord op f d0 d1 d2 a)

/-- A wire piece begins with its command. -/
theorem firstByte_wire {n : Nat} (rest : BitVec n) (c : Byte) :
    firstByte (.wire ((rest ++ c).setWidth 72)) = c := by
  simp only [firstByte]
  ext i hi
  simp only [BitVec.getElem_extractLsb', BitVec.getLsbD_setWidth, BitVec.getLsbD_append]
  grind

theorem reset : Statement .reset := firstByte_request _ _ _ _ _ _
theorem writeBit (b : Bool) : Statement (.writeBit b) := firstByte_request _ _ _ _ _ _
theorem readBit : Statement .readBit := firstByte_request _ _ _ _ _ _
theorem writeByte (v : Byte) : Statement (.writeByte v) := firstByte_request _ _ _ _ _ _
theorem readByte : Statement .readByte := firstByte_request _ _ _ _ _ _
theorem sendCommandSkip (c : Byte) : Statement (.sendCommandSkip c) := firstByte_request _ _ _ _ _ _
theorem sendCommandMatch (a : Address) (c : Byte) : Statement (.sendCommandMatch a c) :=
  firstByte_request _ _ _ _ _ _
theorem search : Statement .search := firstByte_request _ _ _ _ _ _
theorem searchReset : Statement .searchReset := firstByte_request _ _ _ _ _ _
theorem crcCheckAddr (a : Address) : Statement (.crcCheckAddr a) := firstByte_request _ _ _ _ _ _
theorem readScratchpad (a : Address) : Statement (.readScratchpad a) := firstByte_request _ _ _ _ _ _
theorem writeScratchpad (a : Address) (th tl cfg : Byte) : Statement (.writeScratchpad a th tl cfg) :=
  firstByte_request _ _ _ _ _ _
theorem getResolution (a : Address) : Statement (.getResolution a) := firstByte_request _ _ _ _ _ _
theorem setResolution (a : Address) (r : Resolution) : Statement (.setResolution a r) :=
  firstByte_request _ _ _ _ _ _
theorem startMeasurementSkip : Statement .startMeasurementSkip := firstByte_request _ _ _ _ _ _
theorem startMeasurementMatch (a : Address) : Statement (.startMeasurementMatch a) :=
  firstByte_request _ _ _ _ _ _
theorem readTemp (a : Address) (r : Resolution) : Statement (.readTemp a r) := firstByte_request _ _ _ _ _ _
theorem measure (a : Address) (r : Resolution) : Statement (.measure a r) := firstByte_request _ _ _ _ _ _
theorem cmdMatchRom (a : Address) : Statement (.cmdMatchRom a) := by
  have h := firstByte_wire a Config.cmdMatchRom
  rwa [BitVec.setWidth_eq] at h
theorem cmdSkipRom : Statement .cmdSkipRom := by unfold Statement; decide
theorem cmdSearchRom : Statement .cmdSearchRom := by unfold Statement; decide
theorem cmdConvertT : Statement .cmdConvertT := by unfold Statement; decide
theorem cmdReadScratchpad : Statement .cmdReadScratchpad := by unfold Statement; decide
theorem cmdWriteScratchpad (th tl cfg : Byte) : Statement (.cmdWriteScratchpad th tl cfg) := by
  have h := firstByte_wire (cfg ++ (tl ++ th)) Config.cmdWriteScratchpad
  rwa [BitVec.append_assoc, BitVec.append_assoc] at h
theorem cmdCopyScratchpad : Statement .cmdCopyScratchpad := by unfold Statement; decide
theorem cmdRecallE2 : Statement .cmdRecallE2 := by unfold Statement; decide

end Sys2Proof.Laws.OpCode
end

