-- ==== Sys2Proof/Machine/Assembler.lean ====
section
/-! DEFINITION. The pseudo-operations of `30_encoding.md` R78, each with its expansion into requests. -/

namespace Sys2Proof.Machine

/-- The pseudo-operations (R78). -/
inductive Pseudo where
  | convertAll
  | copyScratchpad (t : Target)
  | recallE2 (t : Target)
  | skipRom
deriving DecidableEq, Repr

/-- `SEND_COMMAND t, c` as a request. -/
def Target.sendCommand : Target → Byte → Instr
  | .skip, c => .sendCommandSkip c
  | .device a, c => .sendCommandMatch a c

/-- The expansion of a pseudo-operation (R78). -/
def Pseudo.expand : Pseudo → List Instr
  | .convertAll => [.startMeasurementSkip]
  | .copyScratchpad t => [t.sendCommand 0x48]
  | .recallE2 t => [t.sendCommand 0xB8]
  | .skipRom => [.reset, .writeByte 0xCC]

end Sys2Proof.Machine
end

