-- ==== Sys2Proof/Tests/Slice0.lean ====
section
/-! SUPPORT. Our own tests. Expected values are those of `95_test_vectors.md` unless a comment names a rule; the last part
shows, for each statement with hypotheses, a state and operands that meet them. -/

namespace Sys2Proof.Tests

open Sys2Proof.Machine

-- one theorem at a time: each would else hold a thread, with its stack, while the kernel evaluates it
set_option Elab.async false

/-! ## Ill-formed words are refused (section 2.7) -/

/-- Neither the table nor the decoder accepts the word. -/
def refused (c : Code) : Bool := !c.wellFormed && (decode c).toOption.isNone

theorem test_reserved_op : [0x00, 0x06, 0x30, 0xFF].all (fun w => refused (.request w)) = true := by decide +kernel
theorem test_unused_d0_bits : refused (.request 0x20002) = true := by decide +kernel
theorem test_wrong_tgt :
    [0x101, 0x1E000000000000280000000000000031, 0x1E000000000000280000000000000120].all
      (fun w => refused (.request w)) = true := by decide +kernel
theorem test_reserved_bits : [0x201, 0x10000000004].all (fun w => refused (.request w)) = true := by decide +kernel
theorem test_unused_addr :
    [0x10000000000000001, 0x1E000000000000280000000000000035].all (fun w => refused (.request w)) = true := by
  decide +kernel
theorem test_resolution_over_two_bits : refused (.request 0x1E000000000000280000000000040134) = true := by
  decide +kernel
theorem test_unused_d2 : refused (.request 0x1E000000000000280000000100000131) = true := by decide +kernel
theorem test_unknown_wire_command : refused (.wire 0x33) = true := by decide +kernel
theorem test_trailing_wire_bits : refused (.wire 0x144) = true := by decide +kernel

/-! ## Decoding (words of sections 2.1 to 2.5; wire bytes of `30_encoding.md` R80, R81) -/

theorem test_decode_signaling :
    decode (.request 0x01) = .ok .reset ∧ decode (.request 0x02) = .ok (.writeBit false) ∧
    decode (.request 0x10002) = .ok (.writeBit true) ∧ decode (.request 0x03) = .ok .readBit ∧
    decode (.request 0xCC0004) = .ok (.writeByte 0xCC) ∧ decode (.request 0x05) = .ok .readByte := by decide +kernel

theorem test_decode_rom :
    decode (.request 0x440010) = .ok (.sendCommandSkip 0x44) ∧
    decode (.request 0x1E000000000000280000000000BE0110) = .ok (.sendCommandMatch 0x1E00000000000028 0xBE) ∧
    decode (.request 0x11) = .ok .search ∧ decode (.request 0x12) = .ok .searchReset ∧
    decode (.request 0xA200000001B81C020000000000000020) = .ok (.crcCheckAddr 0xA200000001B81C02) := by decide +kernel

theorem test_decode_sensor :
    decode (.request 0x1E000000000000280000000000000131) = .ok (.readScratchpad 0x1E00000000000028) ∧
    decode (.request 0x1E000000000000280000005F464B0132) =
      .ok (.writeScratchpad 0x1E00000000000028 0x4B 0x46 0x5F) ∧
    decode (.request 0x1E000000000000280000000000000133) = .ok (.getResolution 0x1E00000000000028) ∧
    decode (.request 0x1E000000000000280000000000020134) = .ok (.setResolution 0x1E00000000000028 .bits11) ∧
    decode (.request 0x35) = .ok .startMeasurementSkip ∧
    decode (.request 0x1E000000000000280000000000000135) = .ok (.startMeasurementMatch 0x1E00000000000028) ∧
    decode (.request 0x1E000000000000280000000000030136) = .ok (.readTemp 0x1E00000000000028 .bits12) ∧
    decode (.request 0x29000000000001280000000000030137) = .ok (.measure 0x2900000000000128 .bits12) := by
  decide +kernel

theorem test_decode_wire :
    decode (.wire 0x1E0000000000002855) = .ok (.cmdMatchRom 0x1E00000000000028) ∧
    decode (.wire 0xCC) = .ok .cmdSkipRom ∧ decode (.wire 0xF0) = .ok .cmdSearchRom ∧
    decode (.wire 0x44) = .ok .cmdConvertT ∧ decode (.wire 0xBE) = .ok .cmdReadScratchpad ∧
    decode (.wire 0x5F464B4E) = .ok (.cmdWriteScratchpad 0x4B 0x46 0x5F) ∧
    decode (.wire 0x48) = .ok .cmdCopyScratchpad ∧ decode (.wire 0xB8) = .ok .cmdRecallE2 := by decide +kernel

theorem test_decode_table_word :
    decodeTableWord 8 0x44 = some .cmdConvertT ∧ decodeTableWord 128 0x10002 = some (.writeBit true) := by
  decide +kernel

/-! ## Pure functions -/

theorem test_crc8 :
    crc8 [] = 0x00 ∧ crc8 [0x80] = 0x8C ∧ crc8 [0x02, 0x1C, 0xB8, 0x01, 0, 0, 0] = 0xA2 ∧
    crc8 [0x31, 0x32, 0x33, 0x34, 0x35, 0x36, 0x37, 0x38, 0x39] = 0xA1 := by decide +kernel

theorem test_crc8_bits : [false, true, false, false].foldl crcBit 0 = 0x23 := by decide +kernel

theorem test_decode_temp :
    decodeTemp ⟨Timing.documented, true, 4, 16, 0, .eightBit⟩ [0x91, 0xFF] .bits12 = -111 ∧
    decodeTemp ⟨Timing.documented, true, 4, 16, 0, .eightBit⟩ [0x91, 0xFF] .bits9 = -112 ∧
    decodeTemp ⟨Timing.documented, true, 8, 24, 0, .eightBit⟩ [0x91, 0xFF] .bits12 = -1776 := by decide +kernel

theorem test_response_word :
    (Response.ofScratchpad [0x50, 0x05, 0x4B, 0x46, 0x7F, 0xFF, 0x0C, 0x10, 0x1C]).toWord =
      0x0000001C100CFF7F464B055000000000 ∧
    (Response.ofSearch (some 0x7000000000000228)).toWord = 0x00000000700000000000022800000100 ∧
    (Response.ofTemp (-111)).toWord = 0xFF910000 ∧ (Response.ofErr Config.params (.pin 7)).toWord = 0x702 := by decide +kernel

theorem test_byte_trace : byteTrace (.reset true :: (w8 0xCC ++ r8 0x50)) = [.reset true, .w8 0xCC, .r8 0x50] := by
  decide +kernel

theorem test_pseudo_operation : Pseudo.expand (.recallE2 .skip) = [.sendCommandSkip 0xB8] := by decide

/-! ## States for one-step tests -/

/-- The documented parameters, with a slot tolerance that no test looks at. -/
def testParams : Params := ⟨Timing.documented, true, 4, 16, 0, .eightBit⟩

/-- The reset state, the environment's next answers given. -/
def wired (answers : List Answer) : State :=
  { State.reset with env := { State.reset.env with script := answers.map some }, params := testParams }

/-- `n` times the level, then. -/
def levels (n : Nat) (l : Level) : List Answer := List.replicate n (.level l)

/-- An idle line with a device present, and `n` samples and pins answered `Low` after the reset slot. -/
def ready (n : Nat) : State := wired (.level .high :: levels (3 + n) .low)

/-- The same, and these answers after them. -/
def readyThen (n : Nat) (rest : List Answer) : State := wired (.level .high :: (levels (3 + n) .low ++ rest))

/-- Device `A0` with `SP85`. -/
def dev0 : Device := ⟨0x1E00000000000028, 0x1C100CFF7F464B0550, .idle, none, [0xFF91]⟩

/-- Device `A1`, with the scratchpad of program P1. -/
def dev1 : Device := ⟨0x2900000000000128, 0x80FFFFFF7F00000550, .idle, none, [0x0197]⟩

/-- The reset state on a bus with these reference devices. -/
def bench (m : Memory) : State :=
  { State.reset with env := { State.reset.env with remote := some m }, params := testParams }

/-- The state an operation answers; the given one where it answers none. -/
def after (i : Instr) (s : State) : State :=
  match exec i s with
  | .next t => t
  | .fault _ | .refused _ => s

/-! ## One step each (section 2.1: S2, S5 to S9, S14 to S16, S20) -/

theorem test_reset_polls :
    (after .reset (wired (levels 3 .low ++ .level .high :: levels 3 .low))).pin.trace =
      [.sample .low, .delay 2, .sample .low, .delay 2, .sample .low, .delay 2, .sample .high, .low, .delay 480,
        .release, .delay 70, .sample .low, .delay 410] := by decide +kernel
theorem test_reset_no_device :
    (after .reset (wired (levels 4 .high))).port.resp = ⟨.unexpectedResponse, 0, 0, 0⟩ := by decide +kernel
theorem test_write_bit_0 :
    (after (.writeBit false) (ready 0)).pin.trace =
      [.critEnter, .low, .delay 65, .release, .critExit, .delay 5] := by decide +kernel
theorem test_write_bit_low_fault :
    (after (.writeBit true) (wired [.fault 7])).pin.trace = [.critEnter, .critExit] ∧
    (after (.writeBit true) (wired [.fault 7])).port.resp.toWord = 0x702 := by decide +kernel
theorem test_read_bit_high :
    (after .readBit (wired (levels 3 .high))).port.resp.toWord = 0x100 ∧
    (after .readBit (wired (levels 3 .high))).pin.trace =
      [.critEnter, .low, .delay 1, .release, .delay 1, .sample .high, .critExit, .delay 53] := by decide +kernel
theorem test_read_bit_release_fault :
    (after .readBit (wired [.level .low, .fault 7])).pin =
      ⟨.low, false, [.critEnter, .low, .delay 1, .critExit], []⟩ := by decide +kernel
theorem test_write_byte_order :
    (after (.writeByte 0xCC) (wired (levels 16 .low))).pin.slots =
      [.write false, .write false, .write true, .write true, .write false, .write false, .write true, .write true] := by
  decide +kernel
theorem test_write_byte_third_slot_fault :
    (after (.writeByte 0xCC) (wired (levels 4 .low ++ [.fault 7]))).pin.slots = [.write false, .write false] := by
  decide +kernel
theorem test_read_byte :
    (after .readByte (wired ([Level.low, .high, .high, .high, .low, .high, .high, .high].flatMap (levels 3)))).port.resp
      = ⟨.ok, 0xEE, 0, 0⟩ := by decide +kernel

/-! ## One step each on a bus with devices (sections 2.2 to 2.5) -/

theorem test_send_command_skip :
    byteTrace (after (.sendCommandSkip 0x44) (bench [dev0])).pin.slots = [.reset true, .w8 0xCC, .w8 0x44] ∧
    nominalUs (after (.sendCommandSkip 0x44) (bench [dev0])).pin.trace = 2050 := by decide +kernel
theorem test_send_command_match :
    byteTrace (after (.sendCommandMatch 0x1E00000000000028 0xBE) (bench [dev0])).pin.slots =
      [.reset true, .w8 0x55, .w8 0x28, .w8 0, .w8 0, .w8 0, .w8 0, .w8 0, .w8 0, .w8 0x1E, .w8 0xBE] := by
  decide +kernel
theorem test_search_two_devices :
    (after .search (bench [dev0, dev1])).search = ⟨0x1E00000000000028, 9, 0, false⟩ ∧
    (after .search (bench [dev0, dev1])).port.resp.toWord = 0x1E0000000000002800000100 := by decide +kernel
theorem test_search_exhausted :
    (after .search { bench [dev0] with search := ⟨5, 0, 4, true⟩ }).search = .zero := by decide +kernel
theorem test_search_reset : (after .searchReset { bench [] with search := ⟨5, 6, 7, true⟩ }).search = .zero := by
  decide +kernel
theorem test_crc_check_addr :
    (after (.crcCheckAddr 0xA200000001B81C02) (bench [])).port.resp.status = .ok ∧
    (after (.crcCheckAddr 0xA200000001B81C03) (bench [])).port.resp.status = .crcMismatch := by decide +kernel
theorem test_read_scratchpad :
    (after (.readScratchpad 0x1E00000000000028) (bench [dev0])).port.resp.toWord =
      0x0000001C100CFF7F464B055000000000 := by decide +kernel
theorem test_read_scratchpad_absent :
    (after (.readScratchpad 0x2900000000000128) (bench [dev0])).port.resp.status = .crcMismatch := by decide +kernel
theorem test_write_scratchpad :
    ((after (.writeScratchpad 0x1E00000000000028 0x4B 0x46 0x5F) (bench [dev0])).env.remote.map
      fun m => m.map Device.sp) = some [0x6C100CFF5F464B0550] := by decide +kernel
theorem test_get_resolution :
    (after (.getResolution 0x1E00000000000028) (bench [dev0])).port.resp.toWord = 0x300 := by decide +kernel
theorem test_get_resolution_unrecognised :
    (after (.getResolution 0x1E00000000000028) (bench [{ dev0 with sp := 0x93100CFF7E464B0550 }])).port.resp.status =
      .unexpectedResponse := by decide +kernel
theorem test_set_resolution :
    ((after (.setResolution 0x1E00000000000028 .bits9) (bench [dev0])).env.remote.map fun m => m.map Device.sp) =
      some [0x8C100CFF1F464B0550] := by decide +kernel
theorem test_start_measurement :
    ((after .startMeasurementSkip (bench [dev0])).env.remote.map fun m => m.map Device.converting) =
      some [some ⟨0x7F, 2050⟩] ∧
    (after (.startMeasurementMatch 0x1E00000000000028) (bench [dev0])).pin.slots.length = 81 := by decide +kernel
theorem test_read_temp :
    (after (.readTemp 0x1E00000000000028 .bits12) (bench [dev0])).port.resp.toWord = 0x5500000 := by decide +kernel
theorem test_measure :
    (after (.measure 0x1E00000000000028 .bits12) (bench [dev0])).port.resp.toWord = 0xFF910000 := by decide +kernel
theorem test_measure_other_family :
    (after (.measure 0xB366554433221110 .bits12) (bench [dev0])).pin.trace = [] := by decide +kernel

/-! ## Time and long low times (`70_reset_and_hazards.md` R222, R224) -/

/-- The state a step answers. -/
def stepped (s : State) : State :=
  match step s with
  | .next t => t
  | .fault _ | .refused _ => s

/-- A conversion at 12 bits that has gone on for 400 ms. -/
def underway : State :=
  { bench [{ dev0 with converting := some ⟨0x7F, 0⟩ }] with
    host := { State.reset.host with inputs := [.pause 350] }
    env := { (bench [{ dev0 with converting := some ⟨0x7F, 0⟩ }]).env with elapsedUs := 400000 } }

theorem test_pauses_add_up :
    ((stepped underway).env.remote.map fun m => m.map Device.converting) = some [none] ∧
    ((stepped underway).env.remote.map fun m => m.map fun d => byteAt d.sp 0) = some [0x91] := by decide +kernel

/-- A microsecond before the bound of a conversion at 12 bits, in a device that sends its scratchpad; the line is held
low. -/
def nearlyOver : State :=
  let s := bench [{ dev0 with mode := .sendSp 0, converting := some ⟨0x7F, 0⟩ }]
  { s with pin := { s.pin with drive := .low }, env := { s.env with elapsedUs := 749999 } }

/-- RESET that ends in `BusNotHigh`: its poll takes the time. -/
theorem test_poll_takes_time :
    (after .reset nearlyOver).port.resp.status = .busNotHigh ∧
    ((after .reset nearlyOver).env.remote.map fun m => m.map Device.converting) = some [none] := by decide +kernel

/-- Bit 0 of the old scratchpad is 0, of the new temperature `0xFF91` it is 1. -/
theorem test_sample_after_the_bound : (after .readBit nearlyOver).port.resp.aux = 1 := by decide +kernel

/-- A reset slot whose release faults, on a bus with a device. -/
def cutReset : State :=
  { bench [dev0] with
    env := { (bench [dev0]).env with script := [some (.level .high), some (.level .high), some (.fault 7)] } }

theorem test_cut_reset_is_a_pulse :
    ((after .reset cutReset).env.remote.map fun m => m.map Device.mode) = some [.romCommand 0 0] ∧
    (after .reset cutReset).pin.drive = .low ∧ (after .reset cutReset).env.lowUs = 480 := by decide +kernel

/-- `PinErr` as another type (`00_scope.md` R11): two values, with the codes 3 and 9. -/
theorem test_other_pin_fault_type :
    (after .readBit { wired [.fault 1] with params := { testParams with pinErr := .values 3 [9] } }).port.resp =
      ⟨.pin, 9, 0, 0⟩ := by decide +kernel

/-! ## Wire pieces (`30_encoding.md` R80, R81) -/

/-- A device that has been selected. -/
def selected : Device := { dev0 with mode := .function 0 0 }

theorem test_wire_match :
    ((after (.cmdMatchRom 0x1E00000000000028) (bench [{ dev0 with mode := .romCommand 0 0 }])).env.remote.map
      fun m => m.map Device.mode) = some [.function 0 0] := by decide +kernel
theorem test_wire_skip :
    ((after .cmdSkipRom (bench [{ dev0 with mode := .romCommand 0 0 }])).env.remote.map fun m => m.map Device.mode) =
      some [.function 0 0] := by decide +kernel
theorem test_wire_search :
    (after .cmdSearchRom (bench [{ dev0 with mode := .romCommand 0 0 }])).port.resp.toWord =
      0x1E0000000000002800000100 := by decide +kernel
theorem test_wire_convert :
    ((after .cmdConvertT (bench [selected])).env.remote.map fun m => m.map Device.converting) = some [some ⟨0x7F, 550⟩] := by
  decide +kernel
theorem test_wire_read :
    (after .cmdReadScratchpad (bench [selected])).port.resp.data = 0x1C100CFF7F464B0550 := by decide +kernel
theorem test_wire_write :
    ((after (.cmdWriteScratchpad 0x4B 0x46 0x5F) (bench [selected])).env.remote.map fun m => m.map Device.sp) =
      some [0x6C100CFF5F464B0550] := by decide +kernel
theorem test_wire_copy_and_recall :
    byteTrace (after .cmdCopyScratchpad (bench [selected])).pin.slots = [.w8 0x48] ∧
    byteTrace (after .cmdRecallE2 (bench [selected])).pin.slots = [.w8 0xB8] := by decide +kernel

/-! ## The step -/

theorem test_step_runs_first_instruction :
    (match step ((bench [dev0]).withFetchWord 128 0x1E000000000000280000000000000133) with
      | .next t => t.port.resp.aux
      | .fault _ | .refused _ => 0xFF) = 3 := by decide +kernel

/-! ## Witnesses: a state and operands that meet the hypotheses of each statement together -/

/-- The reset state with this cursor. -/
def withCursor (c : SearchState) (s : State) : State := { s with search := c }

/-- The reset state with the host having presented this. -/
def presented (inputs : List HostInput) (s : State) : State := { s with host := { s.host with inputs := inputs } }

/-- A bench whose host has not answered the wait. -/
def patient (s : State) : State := { s with host := { s.host with waitDone := false } }

/-- A device that converts at 12 bits. -/
def converting : Device := { dev0 with converting := some ⟨0x7F, 0⟩ }

/-- An empty line on which every primitive is answered `High` after a fault-free poll. -/
def empty : State := wired (levels 4 .high)

/-- An answer that is no fault. -/
def isLevel : Answer → Bool
  | .level _ => true
  | .fault _ => false

/-- Given answers that are all levels, none of the primitives they cover faults. -/
theorem wired_unfaulted_append {answers rest : List Answer} {n : Nat} (h : answers.all isLevel = true)
    (hn : n ≤ answers.length) : (wired (answers ++ rest)).env.Unfaulted n := by
  intro k hk
  have hk' : k < answers.length := by omega
  have hl := List.all_eq_true.mp h _ (List.getElem_mem hk')
  simp only [Env.faultAt, Env.given, wired, List.getElem?_map, List.getElem?_append_left hk',
    List.getElem?_eq_getElem hk', Option.map_some, Option.join_some]
  cases ha : answers[k] <;> simp_all [isLevel]

theorem wired_unfaulted {answers : List Answer} {n : Nat} (h : answers.all isLevel = true) (hn : n ≤ answers.length) :
    (wired answers).env.Unfaulted n := by
  simpa only [List.append_nil] using wired_unfaulted_append (rest := []) h hn

theorem wired_low_unfaulted (n : Nat) : (wired (levels n .low)).env.Unfaulted n :=
  wired_unfaulted (by simp [levels, isLevel]) (by simp [levels])

/-- The line is idle at once, with a device present, whatever is answered after the reset slot's levels. -/
theorem readyThen_lineReady {n k : Nat} (h : k ≤ n + 4) (rest : List Answer) : LineReady (readyThen n rest) 0 k := by
  refine ⟨⟨show 0 < 125 by decide, by intro k hk; omega, rfl⟩, ?_, ?_⟩
  · obtain ⟨m, hm⟩ : ∃ m, 3 + n = m + 3 := ⟨n, by omega⟩
    simp [Env.levelAt, Env.given, readyThen, wired, levels, hm, List.replicate_succ]
  · rw [Nat.zero_add]
    exact wired_unfaulted_append (answers := .level .high :: levels (3 + n) .low) (by simp [levels, isLevel])
      (by simp [levels]; omega)

theorem ready_lineReady {n k : Nat} (h : k ≤ n + 4) : LineReady (ready n) 0 k := by
  simpa only [readyThen, ready, List.append_nil] using readyThen_lineReady h []

theorem witness_DecodedWordIsItsEncoding : decode (.wire 0xCC) = .ok .cmdSkipRom := by decide +kernel

theorem witness_TableRowsAreDisjoint :
    (∃ r ∈ requestRows, r.admits 0x01 = true) ∧ ∃ r ∈ wireRows, r.admits 0x44 = true := by decide +kernel

theorem witness_IllegalRequestChangesNothing :
    (presented [.code (.request 0)] (bench [])).host.rst = false ∧
    (presented [.code (.request 0)] (bench [])).port.busy = false ∧
    (presented [.code (.request 0)] (bench [])).host.inputs = [.code (.request 0)] ∧
    ∀ r ∈ requestRows, r.admits 0 = false := by decide +kernel

theorem witness_StepRunsTheDecodedOperation :
    (presented [.code (.request 0x11)] (bench [])).host.rst = false ∧
    (presented [.code (.request 0x11)] (bench [])).port.busy = false ∧
    (presented [.code (.request 0x11)] (bench [])).host.inputs = [.code (.request 0x11)] ∧
    decode (.request 0x11) = .ok .search := by decide +kernel

theorem witness_IdleEngineWaits_nothing :
    (bench []).host.rst = false ∧ (bench []).port.busy = false ∧ (bench []).host.inputs = [] := by decide
/-- At the bound exactly: 750 ms at 12 bits. -/
theorem witness_IdleEngineWaits_pause :
    (presented [.pause 750] (bench [converting])).host.inputs = [.pause 750] ∧
    (presented [.pause 750] (bench [converting])).env.remote = some [converting] ∧
    Memory.find [converting] 0x1E00000000000028 = some converting ∧ converting.converting = some ⟨0x7F, 0⟩ ∧
    Conversion.due ⟨0x7F, 0⟩ = some 750000 ∧
    750000 ≤ (presented [.pause 750] (bench [converting])).env.elapsedUs + 1000 * 750 := by decide +kernel

/-- A MEASURE that waits. -/
def waiting : State := after (.measure 0x1E00000000000028 .bits9) (patient (bench [dev0]))

theorem witness_BusyEngineHoldsRequests :
    waiting.host.rst = false ∧ waiting.port.busy = true ∧
    waiting.port.suspended = some ⟨0x1E00000000000028, .bits9⟩ ∧ waiting.host.waitDone = false := by decide +kernel
/-- The same, the wait answered. -/
def answered : State := { waiting with host := { waiting.host with waitDone := true } }

theorem witness_BusyEngineHoldsRequests_answered : answered.host.waitDone = true := rfl

theorem ready_lineReady_read : LineReady (ready 376) 0 380 := ready_lineReady (by decide)

/-- A MEASURE whose wait is answered, in this state. -/
def resumed (s : State) : State :=
  { s with port := { s.port with busy := true, waitReq := true, waitMs := 94,
                                 suspended := some ⟨0x1E00000000000028, .bits9⟩ } }

theorem resumed_lineReady {s : State} {a n : Nat} (h : LineReady s a n) : LineReady (resumed s) a n := h

theorem witness_MeasureReadsAfterTheWait :
    (resumed (ready 376)).host.rst = false ∧ (resumed (ready 376)).port.busy = true ∧
    (resumed (ready 376)).port.suspended = some ⟨0x1E00000000000028, .bits9⟩ ∧
    (resumed (ready 376)).host.waitDone = true ∧ (resumed (ready 376)).pin.crit = false ∧
    byteAt (0x1E00000000000028 : Address) 0 = 0x28 ∧ LineReady (resumed (ready 376)) 0 380 :=
  ⟨rfl, rfl, rfl, rfl, rfl, by decide, resumed_lineReady ready_lineReady_read⟩
theorem witness_MeasureReadsAfterTheWait_errors :
    ((∀ k, k < 125 → (resumed (wired (levels 125 .low))).env.levelAt k .released .poll = .low) ∧
      (resumed (wired (levels 125 .low))).env.Unfaulted 125) ∧
    LineIdle (resumed empty) 0 ∧ (resumed empty).env.levelAt 3 .released .presence = .high ∧
    (resumed empty).env.Unfaulted 4 := by decide +kernel

theorem witness_StepKeepsInvariant : State.reset.Inv ∧ step State.reset = .next State.reset :=
  ⟨⟨by decide, rfl, rfl, rfl, by decide, (by intro m h; cases h), by intro m d c due h; cases h⟩, rfl⟩
/-- With a conversion in progress, a microsecond before its bound. -/
theorem witness_StepKeepsInvariant_converting :
    let s := { nearlyOver with pin := { nearlyOver.pin with drive := .released } }
    s.Inv ∧ step s = .next s := by
  refine ⟨⟨by decide, rfl, rfl, rfl, by decide, ?_, ?_⟩, rfl⟩
  · intro m h
    cases h
    decide
  · intro m d c due h hd hc hdue
    cases h
    cases List.mem_singleton.mp hd
    cases hc
    cases hdue
    decide

theorem witness_ResetInput : ({ bench [] with host := ⟨[], true, true⟩ }).host.rst = true := rfl

theorem witness_EveryOperationResponds : (bench []).host.waitDone = true ∧ (bench []).pin.crit = false := by decide

theorem witness_LineReleasedUnlessPinFault :
    ∃ t, (bench [dev0]).pin.drive = .released ∧ exec .readBit (bench [dev0]) = .next t ∧
      (t.port.busy = true ∨ t.port.resp.status ≠ .pin) :=
  ⟨_, rfl, rfl, by decide +kernel⟩
theorem witness_LineReleasedUnlessPinFault_busy :
    ∃ t, (patient (bench [dev0])).pin.drive = .released ∧
      exec (.measure 0x1E00000000000028 .bits9) (patient (bench [dev0])) = .next t ∧
      (t.port.busy = true ∨ t.port.resp.status ≠ .pin) :=
  ⟨_, rfl, rfl, by decide +kernel⟩

theorem witness_PinFaultsArePrecise :
    ∃ t, exec .readBit (wired [.level .low, .fault 7]) = .next t :=
  ⟨_, rfl⟩
/-- The first sample after the wait faults. -/
def faulted : State := resumed (wired [.fault 7])

theorem witness_PinFaultsArePrecise_afterTheWait :
    ∃ t, faulted.host.rst = false ∧ faulted.port.busy = true ∧
      faulted.port.suspended = some ⟨0x1E00000000000028, .bits9⟩ ∧ faulted.host.waitDone = true ∧
      step faulted = .next t :=
  ⟨_, rfl, rfl, rfl, rfl, rfl⟩

/-! ### Signaling -/

/-- The last sample that may be `High`: 124 before it are `Low`. -/
def lateLine : State := wired (levels 124 .low ++ .level .high :: levels 3 .low)

theorem witness_ResetSlot_present :
    lateLine.pin.crit = false ∧ LineIdle lateLine 124 ∧ lateLine.env.Unfaulted 128 ∧
    lateLine.env.levelAt 127 .released .presence = .low := by decide +kernel
theorem witness_ResetSlot_absent :
    empty.pin.crit = false ∧ LineIdle empty 0 ∧ empty.env.Unfaulted 4 ∧
    empty.env.levelAt 3 .released .presence = .high := by decide +kernel
theorem witness_ResetSlot_pulse_faults :
    [1, 2, 3].all (fun j =>
      let s := wired (levels j .high ++ [.fault 7])
      decide (LineIdle s 0) && decide (s.env.Unfaulted j) && s.env.faultAt j == some 7) = true := by decide +kernel
theorem witness_ResetSlot_stuck :
    (∀ k, k < 125 → (wired (levels 125 .low)).env.levelAt k .released .poll = .low) ∧
    (wired (levels 125 .low)).env.Unfaulted 125 := by decide +kernel
theorem witness_ResetSlot_poll_faults :
    [0, 124].all (fun p =>
      let s := wired (levels p .low ++ [.fault 7])
      decide (p < s.params.timing.nPoll) && decide (∀ k, k < p → s.env.levelAt k s.pin.drive .poll = .low) &&
        decide (s.env.Unfaulted p) && s.env.faultAt p == some 7) = true := by decide +kernel

theorem witness_WriteBitSlot :
    (ready 0).env.Unfaulted 2 ∧ (wired [.fault 7]).env.faultAt 0 = some 7 ∧
    (wired [.level .low, .fault 7]).env.faultAt 0 = none ∧
    (wired [.level .low, .fault 7]).env.faultAt 1 = some 7 := by decide +kernel

theorem witness_ReadBitSlot :
    (ready 0).env.Unfaulted 3 ∧ NoPulse (ready 0) 1 ∧ (wired [.fault 7]).env.faultAt 0 = some 7 ∧
    (wired [.level .low, .fault 7]).env.faultAt 0 = none ∧
    (wired [.level .low, .fault 7]).env.faultAt 1 = some 7 ∧
    (wired (levels 2 .low ++ [.fault 7])).env.Unfaulted 2 ∧
    (wired (levels 2 .low ++ [.fault 7])).env.faultAt 2 = some 7 := by decide +kernel

/-- At both ends of the byte, with the parameters of the document. -/
theorem witness_WriteByteSlots :
    (wired (levels 16 .low)).env.Unfaulted 16 ∧ (wired (levels 16 .low)).params.timing = Timing.documented ∧
    (wired [.fault 7]).env.Unfaulted (2 * 0 + 0) ∧ (wired [.fault 7]).env.faultAt (2 * 0 + 0) = some 7 ∧
    (wired (levels 15 .low ++ [.fault 7])).env.Unfaulted (2 * 7 + 1) ∧
    (wired (levels 15 .low ++ [.fault 7])).env.faultAt (2 * 7 + 1) = some 7 := by decide +kernel

theorem witness_ReadByteSlots :
    (wired (levels 24 .low)).env.Unfaulted 24 ∧ (wired (levels 24 .low)).env.remote = none ∧
    (wired (levels 24 .low)).params.timing = Timing.documented ∧
    (wired [.fault 7]).env.Unfaulted (3 * 0 + 0) ∧ (wired [.fault 7]).env.faultAt (3 * 0 + 0) = some 7 ∧
    (wired (levels 23 .low ++ [.fault 7])).env.Unfaulted (3 * 7 + 2) ∧
    (wired (levels 23 .low ++ [.fault 7])).env.faultAt (3 * 7 + 2) = some 7 := by decide +kernel

/-- A bench whose line the engine has held low for so long. -/
def stuck (us : Nat) : State :=
  { bench [dev0] with pin := ⟨.low, false, [], []⟩, env := { (bench [dev0]).env with lowUs := us } }

theorem witness_StuckLineAndRecovery_release :
    (wired (levels 2 .high ++ [.fault 7])).pin.crit = false ∧
    LineIdle { wired (levels 2 .high ++ [.fault 7]) with
      env := { (wired (levels 2 .high ++ [.fault 7])).env with remote := some [dev0] } } 0 ∧
    (wired (levels 2 .high ++ [.fault 7])).env.Unfaulted 2 ∧
    (wired (levels 2 .high ++ [.fault 7])).env.faultAt 2 = some 7 ∧ Config.resetPulseUs ≤ testParams.timing.tRstl := by
  decide +kernel
/-- At the boundaries: 230 µs and the poll's 250, 415 and a write 0's 65, and a pause. -/
theorem witness_StuckLineAndRecovery :
    (stuck 230).env.script = [] ∧ (stuck 230).env.remote = some [dev0] ∧ (stuck 230).pin.drive = .low ∧
    (stuck 230).pin.crit = false ∧ 0 < (stuck 230).params.timing.nPoll ∧ 230 + 125 * 2 = Config.resetPulseUs ∧
    ¬ NoPulse (stuck 415) 65 ∧ NoPulse (stuck 414) 65 ∧
    (presented [.pause 1] (stuck 0)).host.inputs = [.pause 1] ∧
    Config.resetPulseUs ≤ (presented [.pause 1] (stuck 0)).env.lowUs + 1000 * 1 := by decide +kernel

theorem witness_TransactionNeedsLineAndPresence_stuck :
    startsWithReset (wired (levels 125 .low)).search .search = true ∧ (wired (levels 125 .low)).pin.crit = false ∧
    (∀ k, k < 125 → (wired (levels 125 .low)).env.levelAt k .released .poll = .low) ∧
    (wired (levels 125 .low)).env.Unfaulted 125 := by decide +kernel
theorem witness_TransactionNeedsLineAndPresence_absent :
    startsWithReset empty.search (.measure 0x1E00000000000028 .bits9) = true ∧ empty.pin.crit = false ∧
    LineIdle empty 0 ∧ empty.env.levelAt 3 .released .presence = .high ∧ empty.env.Unfaulted 4 := by decide +kernel

theorem witness_NominalDurations : (List.replicate 9 (0 : Byte)).length = 9 := rfl

/-! ### The ROM layer -/

theorem witness_SendCommandSlots : LineReady (ready 32) 0 36 ∧ LineReady (ready 160) 0 164 :=
  ⟨ready_lineReady (by decide), ready_lineReady (by decide)⟩

theorem witness_SearchExhausted : (withCursor ⟨1, 0, 0, true⟩ (bench [])).search.lastDeviceFlag = true := rfl

/-- Every probe bit 0: a branch point at each position. -/
theorem witness_SearchPassFollowsTheCursor :
    (ready 528).env.remote = none ∧ (ready 528).search.lastDeviceFlag = false ∧ LineReady (ready 528) 0 532 ∧
    ∀ k, k < 64 → (ready 528).env.probe 20 k ≠ (true, true) :=
  ⟨rfl, rfl, ready_lineReady (by decide), by decide +kernel⟩

/-- No device responds at position `k + 1`, after `k` branch points. -/
def noCandidate (k : Nat) : State := wired (.level .high :: levels (19 + 8 * k) .low ++ levels 6 .high)

theorem noCandidate_lineReady (k : Nat) : LineReady (noCandidate k) 0 (20 + 8 * k + 6) := by
  refine ⟨⟨show 0 < 125 by decide, by intro k hk; omega, rfl⟩, ?_, ?_⟩
  · obtain ⟨m, hm⟩ : ∃ m, 19 + 8 * k = m + 3 := ⟨16 + 8 * k, by omega⟩
    simp [Env.levelAt, Env.given, noCandidate, wired, levels, hm, List.replicate_succ]
  · exact wired_unfaulted (by simp [levels, isLevel]) (by simp [levels]; omega)

/-- At the first and at the last position. -/
theorem witness_SearchNoCandidate :
    LineReady (noCandidate 0) 0 (20 + 8 * 0 + 6) ∧ (noCandidate 0).env.probe 20 0 = (true, true) ∧
    LineReady (noCandidate 63) 0 (20 + 8 * 63 + 6) ∧
    (∀ j, j < 63 → (noCandidate 63).env.probe 20 j ≠ (true, true)) ∧
    (noCandidate 63).env.probe 20 63 = (true, true) ∧ (noCandidate 63).env.remote = none ∧
    (noCandidate 63).search.lastDeviceFlag = false :=
  ⟨noCandidate_lineReady 0, by decide +kernel, noCandidate_lineReady 63, by decide +kernel, by decide +kernel, rfl,
    rfl⟩

theorem witness_FailedSearchDrawsTheCursor :
    ∃ t, exec .search empty = .next t ∧ t.port.resp = .ofErr empty.params .unexpectedResponse ∧
      Err.unexpectedResponse ≠ .crcMismatch :=
  ⟨_, rfl, by decide +kernel, by decide⟩
theorem witness_FailedSearchDrawsTheCursor_piece :
    ∃ t, exec .cmdSearchRom (wired [.fault 7]) = .next t ∧ t.port.resp = .ofErr (wired [.fault 7]).params (.pin 7) ∧
      Err.pin 7 ≠ .crcMismatch :=
  ⟨_, rfl, by decide +kernel, by decide⟩

theorem witness_SearchFindsTheOnlyDevice :
    Reference (withCursor ⟨5, 64, 8, false⟩ (bench [dev0])) [dev0] ∧
    (withCursor ⟨5, 64, 8, false⟩ (bench [dev0])).search.lastDeviceFlag = false := by decide +kernel

theorem witness_FoundAddressIsAttached :
    Reference (withCursor ⟨5, 64, 8, false⟩ (bench [dev0, dev1])) [dev0, dev1] ∧ [dev0, dev1] ≠ [] ∧
    (withCursor ⟨5, 64, 8, false⟩ (bench [dev0, dev1])).search.lastDeviceFlag = false := by decide +kernel

theorem witness_SearchEnumeratesAllDevices :
    Reference (bench [dev0, dev1]) [dev0, dev1] ∧ [dev0, dev1] ≠ [] ∧
    (bench [dev0, dev1]).search = ⟨0, 0, 0, false⟩ ∧ (bench [dev0, dev1]).params.searchCrcCheck = true ∧
    ∀ d ∈ [dev0, dev1], crcOk (addressBytes d.rom) = true := by decide +kernel

theorem witness_OtherOperationsKeepTheCursor :
    ∃ t, exec .reset (bench [dev0]) = .next t ∧ Instr.reset ≠ .search ∧ Instr.reset ≠ .searchReset ∧
      Instr.reset ≠ .cmdSearchRom :=
  ⟨_, rfl, by decide⟩

/-! ### CRC-8 -/

theorem witness_CrcCheckAddrAnswers : (bench []).pin.crit = false := rfl
theorem witness_CrcIsLinear : [(1 : Byte), 2].length = [(3 : Byte), 4].length := rfl
theorem witness_CrcDetectsSingleBitErrors :
    63 < 64 ∧ crcOk (addressBytes 0xA200000001B81C02) = true ∧ 71 < 72 ∧ crcOk (bytesOf 9 dev0.sp) = true := by
  decide +kernel

/-! ### The sensor driver -/

theorem witness_FamilyCheckComesFirst :
    Keyed 0xB366554433221110 (.measure 0xB366554433221110 .bits12) ∧ byteAt (0xB366554433221110 : Address) 0 ≠ 0x28 ∧
    (bench [dev0]).pin.crit = false :=
  ⟨.measure _, by decide, rfl⟩

theorem witness_DriverReadsOnTheWire :
    byteAt (0x1E00000000000028 : Address) 0 = 0x28 ∧ LineReady (ready 376) 0 380 ∧ (ready 376).env.remote = none :=
  ⟨by decide, ready_lineReady (by decide), rfl⟩

/-- A read of zeros, whose check passes, and a second transaction that is given these answers. -/
def twice (answers : List Answer) : State := readyThen 376 answers

theorem witness_DriverReadsOnTheWire_setResolution :
    LineReady (twice (.level .high :: levels 211 .low)) 0 380 ∧
    LineReady ((twice (.level .high :: levels 211 .low)).later 380) 0 212 ∧
    crc8 (bytesOf 8 (0 : Scratchpad)) = byteAt (0 : Scratchpad) 8 ∧
    crc8 (bytesOf 8 (BitVec.allOnes 72)) ≠ byteAt (BitVec.allOnes 72) 8 :=
  ⟨readyThen_lineReady (by decide) _, by decide +kernel, by decide +kernel, by decide +kernel⟩
theorem witness_DriverReadsOnTheWire_setResolution_errors :
    ((∀ k, k < 125 → ((twice (levels 125 .low)).later 380).env.levelAt k .released .poll = .low) ∧
      ((twice (levels 125 .low)).later 380).env.Unfaulted 125) ∧
    LineIdle ((twice (levels 4 .high)).later 380) 0 ∧
    ((twice (levels 4 .high)).later 380).env.levelAt 3 .released .presence = .high ∧
    ((twice (levels 4 .high)).later 380).env.Unfaulted 4 := by decide +kernel

theorem witness_ReferenceDeviceIsRead :
    Reference (bench [dev0]) [dev0] ∧ byteAt (0x1E00000000000028 : Address) 0 = 0x28 ∧
    Memory.find [dev0] 0x1E00000000000028 = some dev0 ∧ dev0.converting = none ∧
    crcOk (bytesOf 9 dev0.sp) = true ∧ byteAt dev0.sp 4 = Resolution.bits12.cfg := by decide +kernel
theorem witness_ReferenceDeviceIsRead_absent :
    Reference (bench [dev0]) [dev0] ∧ byteAt (0x2900000000000128 : Address) 0 = 0x28 ∧ [dev0] ≠ [] ∧
    Memory.find [dev0] 0x2900000000000128 = none := by decide +kernel

theorem witness_WriteScratchpadSlots :
    byteAt (0x1E00000000000028 : Address) 0 = 0x28 ∧ LineReady (ready 208) 0 212 :=
  ⟨by decide, ready_lineReady (by decide)⟩

theorem witness_WriteScratchpadStores :
    Reference (bench [converting, dev1]) [converting, dev1] ∧ byteAt (0x1E00000000000028 : Address) 0 = 0x28 ∧
    Memory.find [converting, dev1] 0x1E00000000000028 = some converting := by decide +kernel

theorem witness_SetResolutionStores :
    Reference (bench [dev0, dev1]) [dev0, dev1] ∧ byteAt (0x1E00000000000028 : Address) 0 = 0x28 ∧
    Memory.find [dev0, dev1] 0x1E00000000000028 = some dev0 ∧ dev0.converting = none ∧
    crcOk (bytesOf 9 dev0.sp) = true := by decide +kernel

theorem witness_ResolutionRoundTrip :
    Reference (bench [dev0]) [dev0] ∧ byteAt (0x1E00000000000028 : Address) 0 = 0x28 ∧
    Memory.find [dev0] 0x1E00000000000028 = some dev0 ∧ dev0.converting = none ∧
    crcOk (bytesOf 9 dev0.sp) = true := by decide +kernel

theorem witness_StartMeasurementSlots :
    LineReady (ready 32) 0 36 ∧ byteAt (0x1E00000000000028 : Address) 0 = 0x28 ∧ LineReady (ready 160) 0 164 :=
  ⟨ready_lineReady (by decide), by decide, ready_lineReady (by decide)⟩

theorem witness_StartMeasurementStartsConversions :
    Reference (bench [dev0, dev1]) [dev0, dev1] ∧ [dev0, dev1] ≠ [] ∧
    byteAt (0x1E00000000000028 : Address) 0 = 0x28 ∧ Memory.find [dev0, dev1] 0x2900000000000128 = some dev1 ∧
    dev1.converting = none := by decide +kernel

theorem witness_MeasureWaits :
    byteAt (0x1E00000000000028 : Address) 0 = 0x28 ∧ LineReady (patient (ready 160)) 0 164 ∧
    (patient (ready 160)).host.waitDone = false := by decide +kernel

/-- At the bound exactly: the operand resolution is the device's own. -/
theorem witness_MeasureReturnsTheSensedTemperature :
    Reference (bench [dev0]) [dev0] ∧ byteAt (0x1E00000000000028 : Address) 0 = 0x28 ∧
    Memory.find [dev0] 0x1E00000000000028 = some dev0 ∧ (bench [dev0]).host.waitDone = true ∧
    Resolution.ofCfg (byteAt dev0.sp 4) = some .bits12 ∧ Resolution.bits12.convMs ≤ Resolution.bits12.convMs := by
  decide +kernel

theorem witness_MeasureResumesWhereItWaited :
    ∃ t, exec (.measure 0x1E00000000000028 .bits9)
        { bench [dev0] with host := { (bench [dev0]).host with waitDone := false, rst := false } } = .next t ∧
      t.port.busy = true :=
  ⟨_, rfl, by decide +kernel⟩

theorem witness_DecodeTempIsExact : testParams.Legal ∧ Params.Legal ⟨Timing.documented, true, 8, 24, 0, .eightBit⟩ := by decide

/-! ### Wire pieces and what the devices keep -/

theorem witness_WirePieces :
    (wired (levels 16 .low)).env.Unfaulted 16 ∧ (wired (levels 144 .low)).env.Unfaulted 144 ∧
    (wired (levels 232 .low)).env.Unfaulted 232 ∧ (wired (levels 232 .low)).env.remote = none ∧
    (wired (levels 64 .low)).env.Unfaulted 64 :=
  ⟨wired_low_unfaulted 16, wired_low_unfaulted 144, wired_low_unfaulted 232, rfl, wired_low_unfaulted 64⟩

theorem witness_WireSearchPiece :
    (wired (levels 528 .low)).env.remote = none ∧ (wired (levels 528 .low)).env.Unfaulted 528 ∧
    ∀ k, k < 64 → (wired (levels 528 .low)).env.probe 16 k ≠ (true, true) :=
  ⟨rfl, wired_low_unfaulted 528, by decide +kernel⟩

theorem witness_NonStoringOperationsKeepScratchpads :
    ∃ t, storesNothing .readByte = true ∧ (bench [dev0]).env.remote = some [dev0] ∧
      exec .readByte (bench [dev0]) = .next t :=
  ⟨_, rfl, rfl, rfl⟩

/-- A selected device and an idle one. -/
theorem witness_RawOperationsKeepDeafScratchpads :
    ∃ t, (bench [selected, dev1]).env.remote = some [selected, dev1] ∧ (bench [selected, dev1]).pin.drive = .released ∧
      exec .cmdConvertT (bench [selected, dev1]) = .next t ∧
      startsWithReset (bench [selected, dev1]).search .cmdConvertT = false ∧
      Memory.find [selected, dev1] 0x2900000000000128 = some dev1 ∧ dev1.mode = .idle ∧
      pieceMode .cmdConvertT = some selected.mode ∧ ∀ th tl cfg, Instr.cmdConvertT ≠ .cmdWriteScratchpad th tl cfg :=
  ⟨_, rfl, rfl, rfl, rfl, by decide +kernel, rfl, rfl, by intro _ _ _ h; cases h⟩

/-- The first and the last bit of a scratchpad write, the first and the last that a whole byte follows, and a selected
device. -/
theorem witness_RawWritesStoreIntoReceivers :
    ([0, 15, 16, 23].all fun j =>
      let d := { dev0 with mode := .recvSp j }
      let s := bench [d]
      s.env.remote == some [d] && decide (s.env.Unfaulted 16) && decide (NoPulse s (writeLow s.params.timing true)) &&
        Memory.find [d] 0x1E00000000000028 == some d && decide (j < 24)) = true ∧
    (bench [selected]).env.remote = some [selected] ∧ (bench [selected]).env.Unfaulted 64 ∧
    NoPulse (bench [selected]) 65 ∧
    Memory.find [selected] 0x1E00000000000028 = some selected ∧ selected.mode = .function 0 0 := by decide +kernel

end Sys2Proof.Tests
end

section
/-! The resolution tables, and the recognition of a configuration byte (`10_state.md` R35, `30_encoding.md` R74, R84,
`43_ds18b20.md` R168). -/

namespace Sys2Proof.Resolution

/-- `9 + r` for the code `r` (`30_encoding.md` R74). -/
theorem bits_eq_nine_add_code (r : Resolution) : r.bits = 9 + r.code.toNat := by
  cases r <;> rfl

/-- The code stands in bits 6 and 5 of the configuration byte, above five ones (`30_encoding.md` R84). -/
theorem cfg_eq_code_shifted (r : Resolution) : r.cfg = (r.code.setWidth 8 <<< 5) ||| 0x1F := by
  cases r <;> rfl

/-- The configuration byte of a resolution is recognised as that resolution. -/
@[simp] theorem ofCfg_cfg (r : Resolution) : ofCfg r.cfg = some r := by
  cases r <;> rfl

/-- Each test of `ofCfg` compares the whole byte, so the test that succeeded names it. -/
theorem eq_cfg_of_ofCfg {c : Byte} {r : Resolution} (h : ofCfg c = some r) : c = r.cfg := by
  unfold ofCfg at h
  split_ifs at h with h9 h10 h11 h12 <;> obtain rfl := Option.some.inj h
  · exact h9
  · exact h10
  · exact h11
  · exact h12

/-- A byte names a resolution exactly when it is the whole configuration byte of that resolution
(`30_encoding.md` R84). -/
theorem ofCfg_eq_some_iff (c : Byte) (r : Resolution) : ofCfg c = some r ↔ c = r.cfg where
  mp := eq_cfg_of_ofCfg
  mpr h := h ▸ ofCfg_cfg r

end Sys2Proof.Resolution

namespace Sys2Proof

/-- Settles O55: the tables by evaluation on the four resolutions, the recognition of a byte by
`Resolution.ofCfg_eq_some_iff`. -/
theorem resolutionTables : Obligations.ResolutionTables :=
  ⟨rfl, rfl, rfl, rfl,
    fun r => ⟨r.bits_eq_nine_add_code, r.cfg_eq_code_shifted⟩,
    Resolution.ofCfg_eq_some_iff⟩

end Sys2Proof
end

section
/-! The signaling layer as whole operations (`40_signaling.md` R100 to R104): how an operation ends, from how its steps
end; what slots in order leave on the pin, and how long they take; and each sub-operation when a pin primitive of it
faults (`60_exceptions.md` R182, R190). -/

namespace Sys2Proof.Machine

/-! ## The end of an operation -/

/-- An error raised in a critical section closes it (`60_exceptions.md` R190). -/
theorem deliverError_pin_of_crit {s : State} (e : Err) (h : s.pin.crit = true) :
    (deliverError e s).pin = (critExit s).pin := by
  simp [deliverError, h]

/-- An error raised outside a critical section leaves the pin alone. -/
theorem deliverError_pin_of_not_crit {s : State} (e : Err) (h : s.pin.crit = false) :
    (deliverError e s).pin = s.pin := by
  simp [deliverError, h]

/-- An operation on the line whose steps end well, with the pin as given, completes. -/
theorem completes_of_ok {α : Type} {mk : α → Response} {op : State → Result α} {i : Instr} {s u : State} {a : α}
    {r : Response} {events : List Event} {slots : List Slot} (hexec : exec i s = operate mk op s)
    (hline : ∀ s, LineOnly s (op s).final) (hop : op (accept s) = .ok a u) (hr : mk a = r)
    (hpin : u.pin = ⟨.released, false, events, slots⟩) :
    ∃ t, Completes i s t r events slots := by
  subst hr
  have hrun : exec i s = .next (respond (mk a) u) := by rw [hexec, operate, hop, finish_ok]
  have hl : LineOnly (accept s) u := by simpa [hop] using hline (accept s)
  refine ⟨_, hrun, ?_, hpin, operate_kept mk hline (hexec ▸ hrun)⟩
  rw [Delivered, respond, hl.port]
  rfl

/-- An operation on the line whose steps raise an error fails, with the pin that delivering the error leaves. -/
theorem fails_of_raised {α : Type} {mk : α → Response} {op : State → Result α} {i : Instr} {s u : State} {e : Err}
    {drive : Drive} {events : List Event} {slots : List Slot} (hexec : exec i s = operate mk op s)
    (hline : ∀ s, LineOnly s (op s).final) (hop : op (accept s) = .raised e u)
    (hpin : (deliverError e u).pin = ⟨drive, false, events, slots⟩) :
    ∃ t, Fails i s t e drive events slots := by
  have hrun : exec i s = .next (deliverError e u) := by rw [hexec, operate, hop, finish_raised]
  have hl : LineOnly (accept s) u := by simpa [hop] using hline (accept s)
  refine ⟨_, hrun, ?_, hpin, operate_kept mk hline (hexec ▸ hrun)⟩
  have hport : (if u.pin.crit then critExit u else u).port = u.port := by split <;> rfl
  rw [Delivered, deliverError, respond, hport, hl.port, hl.params]
  rfl

/-! ## Slots in order -/

/-- After write slots, or after read slots, one at least, the line is released and no critical section open. -/
theorem afterSlots_map_pin {slot : Bool → Slot} (hcrit : ∀ b s, (afterSlot s (slot b)).pin.crit = false)
    {bs : List Bool} (hne : bs ≠ []) (s : State) :
    (afterSlots s (bs.map slot)).pin =
      ⟨.released, false, s.pin.trace ++ slotEvents s (bs.map slot), s.pin.slots ++ bs.map slot⟩ := by
  induction bs generalizing s with
  | nil => exact absurd rfl hne
  | cons b bs ih =>
    rw [List.map_cons, afterSlots_cons]
    cases bs with
    | nil => simpa [slotEvents, afterSlot] using hcrit b s
    | cons c cs => rw [ih (by simp)]; simp [slotEvents]

/-- The drive latch after any number of slots. -/
theorem afterSlots_drive (xs : List Slot) (s : State) :
    (afterSlots s xs).pin.drive = if xs.length = 0 then s.pin.drive else .released := by
  obtain ⟨-, -, -, -, -, -, -, hdrive⟩ := afterSlots_spec xs s
  cases xs with
  | nil => rfl
  | cons x xs => exact hdrive (List.cons_ne_nil x xs)

theorem slotPrimitives_map_write (bs : List Bool) : ((bs.map Slot.write).map slotPrimitives).sum = 2 * bs.length := by
  simp [Function.comp_def, slotPrimitives, Nat.mul_comm]

theorem slotPrimitives_map_read (bs : List Bool) : ((bs.map Slot.read).map slotPrimitives).sum = 3 * bs.length := by
  simp [Function.comp_def, slotPrimitives, Nat.mul_comm]

/-! ## Nominal durations (R111) -/

theorem nominalUs_append (a b : List Event) : nominalUs (a ++ b) = nominalUs a + nominalUs b := by
  simp [nominalUs]

/-- Write slots with the document's figures: 65 µs each, and 5 more for a 0 (R231). -/
theorem nominalUs_write_slots (bs : List Bool) :
    nominalUs ((bs.map Slot.write).flatMap (Slot.events .documented)) =
      65 * bs.length + 5 * (bs.filter (!·)).length := by
  induction bs with
  | nil => rfl
  | cons b bs ih =>
    rw [List.map_cons, List.flatMap_cons, nominalUs_append, ih]
    have hb : nominalUs (Slot.events .documented (.write b)) = if b then 65 else 70 := by cases b <;> rfl
    cases b <;> simp [hb] <;> omega

/-- Read slots with the document's figures: 55 µs each (R231). -/
theorem nominalUs_read_slots (bs : List Bool) :
    nominalUs ((bs.map Slot.read).flatMap (Slot.events .documented)) = 55 * bs.length := by
  induction bs with
  | nil => rfl
  | cons b bs ih =>
    have hb : nominalUs (Slot.events .documented (.read b)) = 55 := rfl
    rw [List.map_cons, List.flatMap_cons, nominalUs_append, ih, hb, List.length_cons]
    omega

/-! ## RESET (R100) -/

/-- The poll, faulted at its sample `p` after as many `Low` ones. -/
theorem pollIdle_faulted {e : PinErr} (p : Nat) : ∀ (n : Nat) (s : State), p < n →
    (∀ k, k < p → s.env.levelAt k s.pin.drive .poll = .low) → s.env.Unfaulted p → s.env.faultAt p = some e →
    pollIdle n s = .raised (.pin e) (takeAnswer (afterLowPolls p s)) := by
  induction p with
  | zero =>
    intro n s hn _ _ hf
    obtain ⟨n, rfl⟩ : ∃ m, n = m + 1 := ⟨n - 1, by omega⟩
    rw [pollIdle, pinSample_faulted _ hf, andThen_raised]
    rfl
  | succ p ih =>
    intro n s hn hl hu hf
    obtain ⟨n, rfl⟩ : ∃ m, n = m + 1 := ⟨n - 1, by omega⟩
    rw [pollIdle, pinSample_unfaulted _ (hu 0 (by omega)), andThen_ok, hl 0 (by omega)]
    refine ih n (afterLowPoll s) (by omega) (fun k hk => ?_) (fun k hk => ?_) ?_
    · rw [afterLowPoll, hold_levelAt _ _ _ _ _ (by decide)]
      simpa using hl (k + 1) (by omega)
    · rw [afterLowPoll, hold_faultAt]
      simpa using hu (k + 1) (by omega)
    · rw [afterLowPoll, hold_faultAt]
      simpa using hf

/-- A line that stays low ends RESET with the poll. -/
theorem busReset_low {s : State}
    (hl : ∀ k, k < s.params.timing.nPoll → s.env.levelAt k s.pin.drive .poll = .low)
    (hu : s.env.Unfaulted s.params.timing.nPoll) :
    busReset s = .raised .busNotHigh (afterLowPolls s.params.timing.nPoll s) := by
  rw [busReset, pollIdle_low _ s hl hu, andThen_raised]

/-- A fault of poll sample `p` ends RESET there. -/
theorem busReset_poll_faulted {s : State} {p : Nat} {e : PinErr} (hn : p < s.params.timing.nPoll)
    (hl : ∀ k, k < p → s.env.levelAt k s.pin.drive .poll = .low) (hu : s.env.Unfaulted p)
    (hf : s.env.faultAt p = some e) :
    busReset s = .raised (.pin e) (takeAnswer (afterLowPolls p s)) := by
  rw [busReset, pollIdle_faulted p _ s hn hl hu hf, andThen_raised]

/-- The events of a reset slot, past its poll, whose primitive `j` faults: `PinLow` (0), `PinRelease` (1) or
`PinSample` (2). -/
def resetCut (t : Timing) (j : Fin 3) : List Event :=
  if j = 0 then []
  else if j = 1 then [.low, .delay t.tRstl]
  else [.low, .delay t.tRstl, .release, .delay t.tPds]

/-- A fault of a primitive of the reset pulse, on an idle line, ends RESET there. -/
theorem busReset_faulted {s : State} {p : Nat} {j : Fin 3} {e : PinErr} (hi : LineIdle s p)
    (hu : s.env.Unfaulted (p + 1 + j)) (hf : s.env.faultAt (p + 1 + j) = some e) :
    ∃ u, busReset s = .raised (.pin e) u ∧ u.pin = { s.pin with
      drive := cutDrive s.pin.drive j
      trace := s.pin.trace ++ (pollEvents s.params.timing p ++ resetCut s.params.timing j) } := by
  obtain ⟨hn, hl, hh⟩ := hi
  obtain ⟨-, -, -, hparams, -, hpin⟩ := afterPoll_spec s p
  have hu' : (afterPoll s p).env.Unfaulted j := fun k hk => by
    rw [afterPoll_env_faultAt]
    exact hu _ (by omega)
  rw [← afterPoll_env_faultAt] at hf
  rw [busReset, pollIdle_idle p _ s hn hl hh (fun k hk => hu k (by omega)), andThen_ok]
  generalize afterPoll s p = t at hparams hpin hu' hf ⊢
  match j, hu', hf with
  | 0, _, hf =>
    rw [pinLow_faulted hf]
    exact ⟨_, rfl, by simp [hpin, cutDrive, resetCut]⟩
  | 1, hu, hf =>
    rw [pinLow_unfaulted (hu 0 (by decide)), andThen_ok, pinRelease_faulted (by simpa using hf)]
    exact ⟨_, rfl, by simp [delay, emit, setDrive, takeAnswer, hpin, hparams, cutDrive, resetCut]⟩
  | 2, hu, hf =>
    rw [pinLow_unfaulted (hu 0 (by decide)), andThen_ok, pinRelease_unfaulted (by simpa using hu 1 (by decide)),
      andThen_ok, pinSample_faulted _ (by simpa using hf)]
    exact ⟨_, rfl, by simp [hold, lowPulse, delay, emit, setDrive, takeAnswer, hpin, hparams, cutDrive, resetCut]⟩

/-- The pin after a RESET that ended with its slot. -/
theorem afterPoll_reset_pin (s : State) (p : Nat) (present : Bool) :
    (afterSlot (afterPoll s p) (.reset present)).pin = ⟨.released, s.pin.crit,
      s.pin.trace ++ (pollEvents s.params.timing p ++ Slot.events s.params.timing (.reset present)),
      s.pin.slots ++ [.reset present]⟩ := by
  obtain ⟨-, -, -, hparams, -, hpin⟩ := afterPoll_spec s p
  simp [afterSlot, hparams, hpin]

/-! ## WRITE_BIT and WRITE_BYTE (R101, R103) -/

/-- WRITE_BIT, faulted at its primitive `j`. -/
theorem writeBit_faulted {s : State} {b : Bool} {j : Fin 2} {e : PinErr} (hu : s.env.Unfaulted j)
    (hf : s.env.faultAt j = some e) :
    ∃ u, writeBit b s = .raised (.pin e) u ∧ (deliverError (.pin e) u).pin =
      ⟨cutDrive s.pin.drive j, false, s.pin.trace ++ writeCut s.params.timing b j, s.pin.slots⟩ := by
  match j, hu, hf with
  | 0, _, hf =>
    rw [writeBit, pinLow_faulted (by simpa using hf)]
    refine ⟨_, rfl, (deliverError_pin_of_crit _ rfl).trans ?_⟩
    simp [critExit, critEnter, emit, setCrit, takeAnswer, cutDrive, writeCut]
  | 1, hu, hf =>
    rw [writeBit, pinLow_unfaulted (by simpa using hu 0 (by decide)), andThen_ok,
      pinRelease_faulted (by simpa using hf)]
    refine ⟨_, rfl, (deliverError_pin_of_crit _ rfl).trans ?_⟩
    simp [critExit, critEnter, emit, setCrit, setDrive, delay, takeAnswer, cutDrive, writeCut, writeLow]

theorem writeBits_append (xs ys : List Bool) (s : State) :
    writeBits (xs ++ ys) s = (writeBits xs s).andThen fun _ => writeBits ys := by
  induction xs generalizing s with
  | nil => rfl
  | cons b xs ih =>
    simp only [List.cons_append, writeBits]
    cases writeBit b s with
    | ok a t => exact ih t
    | raised e t => rfl

/-- A fault in the slot of bit `b` leaves exactly the slots before it sent (R103). -/
theorem writeBits_faulted {s : State} {pre post : List Bool} {b : Bool} {j : Fin 2} {e : PinErr}
    (hu : s.env.Unfaulted (2 * pre.length + j)) (hf : s.env.faultAt (2 * pre.length + j) = some e) :
    ∃ u, writeBits (pre ++ b :: post) s = .raised (.pin e) u ∧ (deliverError (.pin e) u).pin =
      ⟨cutDrive (if pre.length = 0 then s.pin.drive else .released) j, false,
        s.pin.trace ++ (slotEvents s (pre.map .write) ++ writeCut s.params.timing b j),
        s.pin.slots ++ pre.map .write⟩ := by
  rw [writeBits_append, writeBits_unfaulted pre fun k hk => hu k (by omega), andThen_ok, writeBits]
  obtain ⟨-, -, -, hparams, -, htrace, hslots, -⟩ := afterSlots_spec (pre.map .write) s
  have hfault := fun k => slotPrimitives_map_write pre ▸ afterSlots_faultAt (pre.map .write) s k
  obtain ⟨u, hw, hpin⟩ := writeBit_faulted (s := afterSlots s (pre.map .write)) (b := b) (j := j) (e := e)
    (fun k hk => (hfault k).trans (hu _ (by omega))) ((hfault j).trans hf)
  rw [hw]
  exact ⟨u, rfl, by simp [hpin, afterSlots_drive, hparams, htrace, hslots]⟩

theorem bitsOf_ne_nil (v : Byte) : bitsOf v ≠ [] := List.ne_nil_of_length_pos (by simp)

theorem bitsOf_take {k : Nat} (hk : k < 8) (v : Byte) : (bitsOf v).take k = (List.range k).map v.getLsbD := by
  rw [bitsOf, ← List.map_take, List.take_range, Nat.min_eq_left hk.le]

/-- The bits of a byte before bit `k`, bit `k`, and those after it. -/
theorem bitsOf_eq_append {k : Nat} (hk : k < 8) (v : Byte) :
    bitsOf v = (List.range k).map v.getLsbD ++ v.getLsbD k :: (bitsOf v).drop (k + 1) := by
  have hlen : k < (bitsOf v).length := by simpa using hk
  calc bitsOf v = (bitsOf v).take k ++ (bitsOf v).drop k := (List.take_append_drop k _).symm
    _ = _ := by rw [bitsOf_take hk, List.drop_eq_getElem_cons hlen]; simp [bitsOf]

/-- WRITE_BYTE, faulted at primitive `j` of slot `k`. -/
theorem writeByte_faulted {s : State} {v : Byte} {k : Nat} {j : Fin 2} {e : PinErr} (hk : k < 8)
    (hu : s.env.Unfaulted (2 * k + j)) (hf : s.env.faultAt (2 * k + j) = some e) :
    ∃ u, writeByte v s = .raised (.pin e) u ∧ (deliverError (.pin e) u).pin =
      ⟨cutDrive (if k = 0 then s.pin.drive else .released) j, false,
        s.pin.trace ++ (slotEvents s ((List.range k).map fun k => .write (v.getLsbD k)) ++
          writeCut s.params.timing (v.getLsbD k) j),
        s.pin.slots ++ (List.range k).map fun k => .write (v.getLsbD k)⟩ := by
  have hw := writeBits_faulted (s := s) (pre := (List.range k).map v.getLsbD) (post := (bitsOf v).drop (k + 1))
    (b := v.getLsbD k) (j := j) (e := e) (by simpa using hu) (by simpa using hf)
  rw [← bitsOf_eq_append hk] at hw
  simpa [writeByte, Function.comp_def] using hw

/-! ## READ_BIT and READ_BYTE (R102, R104) -/

/-- READ_BIT, faulted at its primitive `j`. -/
theorem readBit_faulted {s : State} {j : Fin 3} {e : PinErr} (hu : s.env.Unfaulted j)
    (hf : s.env.faultAt j = some e) :
    ∃ u, readBit s = .raised (.pin e) u ∧ (deliverError (.pin e) u).pin =
      ⟨cutDrive s.pin.drive j, false, s.pin.trace ++ readCut s.params.timing j, s.pin.slots⟩ := by
  match j, hu, hf with
  | 0, _, hf =>
    rw [readBit, pinLow_faulted (by simpa using hf)]
    refine ⟨_, rfl, (deliverError_pin_of_crit _ rfl).trans ?_⟩
    simp [critExit, critEnter, emit, setCrit, takeAnswer, cutDrive, readCut]
  | 1, hu, hf =>
    rw [readBit, pinLow_unfaulted (by simpa using hu 0 (by decide)), andThen_ok,
      pinRelease_faulted (by simpa using hf)]
    refine ⟨_, rfl, (deliverError_pin_of_crit _ rfl).trans ?_⟩
    simp [critExit, critEnter, emit, setCrit, setDrive, delay, takeAnswer, cutDrive, readCut]
  | 2, hu, hf =>
    rw [readBit, pinLow_unfaulted (by simpa using hu 0 (by decide)), andThen_ok,
      pinRelease_unfaulted (by simpa using hu 1 (by decide)), andThen_ok, pinSample_faulted _ (by simpa using hf)]
    refine ⟨_, rfl, (deliverError_pin_of_crit _ rfl).trans ?_⟩
    simp [critExit, critEnter, emit, setCrit, setDrive, hold, lowPulse, delay, takeAnswer, cutDrive, readCut]

theorem readBits_add (m n : Nat) : ∀ (k : Nat) (v : Byte) (s : State),
    readBits (m + n) k v s = (readBits m k v s).andThen fun v => readBits n (k + m) v := by
  induction m with
  | zero => intro k v s; rw [Nat.zero_add]; rfl
  | succ m ih =>
    intro k v s
    rw [Nat.add_right_comm, readBits, readBits]
    cases readBit s with
    | ok b t => simp only [andThen_ok, ih, Nat.add_right_comm k 1 m, Nat.add_assoc]
    | raised e t => rfl

/-- A fault in slot `k` leaves exactly `k` slots before it on the line (R104). -/
theorem readBits_faulted {s : State} {k n i : Nat} {v : Byte} {j : Fin 3} {e : PinErr} (hk : k < n)
    (hu : s.env.Unfaulted (3 * k + j)) (hf : s.env.faultAt (3 * k + j) = some e) :
    ∃ (bs : List Bool) (u : State), bs.length = k ∧ readBits n i v s = .raised (.pin e) u ∧
      (deliverError (.pin e) u).pin = ⟨cutDrive (if k = 0 then s.pin.drive else .released) j, false,
        s.pin.trace ++ (slotEvents s (bs.map .read) ++ readCut s.params.timing j),
        s.pin.slots ++ bs.map .read⟩ := by
  obtain ⟨n, rfl⟩ : ∃ m, n = k + (m + 1) := ⟨n - k - 1, by omega⟩
  obtain ⟨bs, rfl, hr⟩ := readBits_unfaulted k i v s fun k hk => hu k (by omega)
  rw [readBits_add, hr, andThen_ok, readBits]
  obtain ⟨-, -, -, hparams, -, htrace, hslots, -⟩ := afterSlots_spec (bs.map .read) s
  have hfault := fun k => slotPrimitives_map_read bs ▸ afterSlots_faultAt (bs.map .read) s k
  obtain ⟨u, hw, hpin⟩ := readBit_faulted (s := afterSlots s (bs.map .read)) (j := j) (e := e)
    (fun k hk => (hfault k).trans (hu _ (by omega))) ((hfault j).trans hf)
  rw [hw]
  exact ⟨bs, u, rfl, rfl, by simp [hpin, afterSlots_drive, hparams, htrace, hslots]⟩

/-- The bits that `n` read slots from now on sample, in an environment without reference devices. -/
def Env.readSamples (e : Env) (n : Nat) : List Bool :=
  (List.range n).map fun i => (e.levelAt (3 * i + 2) .released .read).toBool

@[simp] theorem readSamples_length (e : Env) (n : Nat) : (e.readSamples n).length = n := by simp [Env.readSamples]

theorem readSamples_succ (e : Env) (n : Nat) :
    e.readSamples (n + 1) = (e.levelAt 2 .released .read).toBool :: (e.advance 3).readSamples n := by
  simp only [Env.readSamples, List.range_succ_eq_map, List.map_cons, List.map_map, levelAt_advance]
  congr 1
  refine List.map_congr_left fun i _ => ?_
  simp only [Function.comp_apply]
  congr 2
  omega

theorem afterSlot_remote_none {s : State} (hr : s.env.remote = none) (x : Slot) :
    (afterSlot s x).env.remote = none := by
  obtain ⟨-, -, -, -, -, h⟩ := slotEnv_spec s x
  rw [hr] at h
  simpa using h

/-- Without reference devices a read slot changes the coming samples only by the answers it takes. -/
theorem afterSlot_read_readSamples {s : State} (hr : s.env.remote = none) (b : Bool) (n : Nat) :
    (afterSlot s (.read b)).env.readSamples n = (s.env.advance 3).readSamples n := by
  refine List.map_congr_left fun i _ => ?_
  rw [levelAt_ext (e := s.env.advance 3) (by simp [Env.advance, slotPrimitives]) (by simp [slotPrimitives])
    (by rw [afterSlot_remote_none hr, advance_remote, hr])]

/-- Without reference devices, read slots that are not faulted yield the coming samples. -/
theorem readBits_sampled (n : Nat) : ∀ (k : Nat) (v : Byte) (s : State), s.env.remote = none →
    s.env.Unfaulted (3 * n) → ∃ t, readBits n k v s = .ok (assemble k v (s.env.readSamples n)) t := by
  induction n with
  | zero => exact fun k v s _ _ => ⟨s, rfl⟩
  | succ n ih =>
    intro k v s hr hu
    obtain ⟨l, hb, hl⟩ := readBit_unfaulted (s := s) fun i hi => hu i (by omega)
    have hl : l = s.env.levelAt 2 .released .read := by
      rw [hl (.inr hr)]
      exact levelAt_ext (by simp) (by simp) (by simp [hr]) _ _ _
    have hu' : (afterSlot s (.read l.toBool)).env.Unfaulted (3 * n) := fun i hi => by
      rw [afterSlot_faultAt]
      exact hu (3 + i) (by omega)
    obtain ⟨t, ht⟩ := ih (k + 1) (setBit v k l.toBool) _ (afterSlot_remote_none hr _) hu'
    refine ⟨t, ?_⟩
    rw [readBits, hb, andThen_ok, ht, afterSlot_read_readSamples hr, readSamples_succ, ← hl]
    rfl

/-- Without reference devices, the bits of the byte that READ_BYTE yields are the samples of its slots (R104). -/
theorem readByte_sampled {s t : State} {v : Byte} (hr : s.env.remote = none) (hu : s.env.Unfaulted 24)
    (h : readByte s = .ok v t) : BytesSampled s.env 0 [v] := by
  obtain ⟨t', ht'⟩ := readBits_sampled 8 0 0 s hr (by simpa using hu)
  rw [readByte, ht'] at h
  obtain ⟨rfl, -⟩ := Result.ok.inj h
  have hbits := bitsOf_assemble (s.env.readSamples 8) (by simp)
  intro j k hj hk
  obtain rfl : j = 0 := by simpa using hj
  have hbit := congrArg (fun bs => bs[k]?) hbits
  simpa [bitsOf, Env.readSamples, hk] using hbit

end Sys2Proof.Machine

namespace Sys2Proof

open Machine

/-- Settles O19: the poll ends by a `High` sample (and then the slot, `busReset_idle`, or a fault in it,
`busReset_faulted`), by its bound (`busReset_low`), or by a fault (`busReset_poll_faulted`). -/
theorem resetSlot : Obligations.ResetSlot := by
  intro s p hcrit
  have hexec : exec .reset s = operate (fun _ => .done) busReset s := rfl
  have hslot := afterPoll_reset_pin (accept s) p
  have hpolls : ∀ n, (afterLowPolls n (accept s)).pin = ⟨s.pin.drive, false,
      (List.replicate n [.sample .low, .delay s.params.timing.tPoll]).flatten, []⟩ := fun n => by
    obtain ⟨-, -, -, -, -, hpin, -⟩ := afterLowPolls_spec n (accept s)
    simp [hpin, hcrit]
  have hcut : LineIdle s p → ∀ (j : Fin 3) (e : PinErr), s.env.Unfaulted (p + 1 + j) →
      s.env.faultAt (p + 1 + j) = some e → ∃ t, Fails .reset s t (.pin e) (cutDrive s.pin.drive j)
        (pollEvents s.params.timing p ++ resetCut s.params.timing j) [] := by
    intro hi j e hu hf
    obtain ⟨u, hop, hpin⟩ := busReset_faulted (s := accept s) hi hu hf
    refine fails_of_raised hexec lineOnly_busReset hop ?_
    rw [deliverError_pin_of_not_crit _ (by simp [hpin, hcrit])]
    simp [hpin, hcrit]
  refine ⟨fun hi => ⟨fun hu hl => ?present, fun hu hl => ?absent, fun e hu hf => ?lowFault,
    fun e hu hf => hcut hi 1 e hu hf, fun e hu hf => hcut hi 2 e hu hf⟩, fun hl hu => ?stuck,
    fun e hn hl hu hf => ?pollFault⟩
  case present =>
    have hop := busReset_idle (s := accept s) hi hu
    rw [accept_env, hl, presentFlag_low, if_pos rfl] at hop
    exact completes_of_ok hexec lineOnly_busReset hop rfl (by simp [hslot, hcrit, Slot.events])
  case absent =>
    have hop := busReset_idle (s := accept s) hi hu
    rw [accept_env, hl, presentFlag_high, if_neg (by decide)] at hop
    refine fails_of_raised hexec lineOnly_busReset hop ?_
    rw [deliverError_pin_of_not_crit _ (by simp [hslot, hcrit])]
    simp [hslot, hcrit, Slot.events]
  case lowFault => simpa [resetCut, cutDrive] using hcut hi 0 e hu hf
  case stuck =>
    refine fails_of_raised hexec lineOnly_busReset (busReset_low (s := accept s) hl hu) ?_
    rw [deliverError_pin_of_not_crit _ (by simp [hpolls]), hpolls, accept_params]
  case pollFault =>
    refine fails_of_raised hexec lineOnly_busReset (busReset_poll_faulted (s := accept s) hn hl hu hf) ?_
    rw [deliverError_pin_of_not_crit _ (by simp [hpolls]), takeAnswer_pin, hpolls]

/-- Settles O20, by the slot (`writeBit_unfaulted`) and its two faults (`writeBit_faulted`). -/
theorem writeBitSlot : Obligations.WriteBitSlot := by
  intro s b
  have hcut : ∀ (j : Fin 2) (e : PinErr), s.env.Unfaulted j → s.env.faultAt j = some e →
      ∃ t, Fails (.writeBit b) s t (.pin e) (cutDrive s.pin.drive j) (writeCut s.params.timing b j) [] := by
    intro j e hu hf
    obtain ⟨u, hop, hpin⟩ := writeBit_faulted (s := accept s) (b := b) hu hf
    exact fails_of_raised rfl (lineOnly_writeBit b) hop hpin
  refine ⟨fun hu => completes_of_ok rfl (lineOnly_writeBit b) (writeBit_unfaulted (s := accept s) b hu) rfl rfl,
    fun e hf => hcut 0 e (fun k hk => absurd hk k.not_lt_zero) hf,
    fun e h0 hf => hcut 1 e (fun k hk => ?_) hf⟩
  obtain rfl : k = 0 := by simpa using hk
  exact h0

/-- Settles O21, by the slot and its sample (`readBit_unfaulted`) and its three faults (`readBit_faulted`). -/
theorem readBitSlot : Obligations.ReadBitSlot := by
  intro s
  have hcut : ∀ (j : Fin 3) (e : PinErr), s.env.Unfaulted j → s.env.faultAt j = some e →
      ∃ t, Fails .readBit s t (.pin e) (cutDrive s.pin.drive j) (readCut s.params.timing j) [] := by
    intro j e hu hf
    obtain ⟨u, hop, hpin⟩ := readBit_faulted (s := accept s) hu hf
    exact fails_of_raised rfl lineOnly_readBit hop hpin
  refine ⟨fun hu => ?_, fun e hf => hcut 0 e (fun k hk => absurd hk k.not_lt_zero) hf,
    fun e h0 hf => hcut 1 e (fun k hk => ?_) hf, fun e hu hf => hcut 2 e hu hf⟩
  · obtain ⟨l, hop, hl⟩ := readBit_unfaulted (s := accept s) hu
    obtain ⟨t, hrun⟩ := completes_of_ok (i := .readBit) rfl lineOnly_readBit hop rfl rfl
    refine ⟨l, t, ?_, hl⟩
    cases l <;> exact hrun
  · obtain rfl : k = 0 := by simpa using hk
    exact h0

/-- Settles O22, by the slots of a byte (`writeByte_unfaulted`) and its faults (`writeByte_faulted`). -/
theorem writeByteSlots : Obligations.WriteByteSlots := by
  intro s v
  refine ⟨fun hu => ?_, fun k j e hk hu hf => ?_⟩
  · have hend := afterSlots_map_pin (slot := .write) (fun _ _ => rfl) (bitsOf_ne_nil v) (accept s)
    obtain ⟨t, hrun⟩ := completes_of_ok (i := .writeByte v) rfl (lineOnly_writeByte v)
      (writeByte_unfaulted (s := accept s) v hu) rfl hend
    have ⟨_, _, hpin, _⟩ := hrun
    have hslots : t.pin.slots = w8 v := by rw [hpin]; rfl
    refine ⟨t, by rw [hslots]; exact hrun, by simp [hslots, w8, bitsOf, Function.comp_def], fun ht => ?_⟩
    have htrace : t.pin.trace = slotEvents s (w8 v) := by rw [hpin]; rfl
    rw [htrace, slotEvents, ht, w8, nominalUs_write_slots, bitsOf_length]
    rfl
  · obtain ⟨u, hop, hend⟩ := writeByte_faulted (s := accept s) (v := v) hk hu hf
    obtain ⟨t, hrun⟩ := fails_of_raised (i := .writeByte v) rfl (lineOnly_writeByte v) hop hend
    have ⟨_, _, hpin, _⟩ := hrun
    have hslots : t.pin.slots = (List.range k).map fun k => .write (v.getLsbD k) := by rw [hpin]; rfl
    exact ⟨t, by rw [hslots]; exact hrun, hslots⟩

/-- Settles O23, by the slots of a byte (`readByte_unfaulted`), their samples (`readByte_sampled`) and its faults
(`readBits_faulted`). -/
theorem readByteSlots : Obligations.ReadByteSlots := by
  intro s
  refine ⟨fun hu => ?_, fun k j e hk hu hf => ?_⟩
  · obtain ⟨v, hop⟩ := readByte_unfaulted (s := accept s) hu
    have hend := afterSlots_map_pin (slot := .read) (fun _ _ => rfl) (bitsOf_ne_nil v) (accept s)
    obtain ⟨t, hrun⟩ := completes_of_ok (i := .readByte) rfl lineOnly_readByte hop rfl hend
    have ⟨_, _, hpin, _⟩ := hrun
    have hslots : t.pin.slots = r8 v := by rw [hpin]; rfl
    refine ⟨v, t, by rw [hslots]; exact hrun, by simp [hslots, r8, bitsOf, Function.comp_def],
      fun hr => readByte_sampled (s := accept s) hr hu hop, fun ht => ?_⟩
    have htrace : t.pin.trace = slotEvents s (r8 v) := by rw [hpin]; rfl
    rw [htrace, slotEvents, ht, r8, nominalUs_read_slots, bitsOf_length]
  · obtain ⟨bs, u, hlen, hop, hend⟩ := readBits_faulted (s := accept s) (i := 0) (v := 0) hk hu hf
    obtain ⟨t, hrun⟩ := fails_of_raised (i := .readByte) rfl lineOnly_readByte hop hend
    have ⟨_, _, hpin, _⟩ := hrun
    have hslots : t.pin.slots = bs.map .read := by rw [hpin]; rfl
    refine ⟨t, by rw [hslots]; exact hrun, by simp [hslots, hlen], fun x hx => ?_⟩
    obtain ⟨b, -, rfl⟩ := List.mem_map.mp (hslots ▸ hx)
    exact ⟨b, rfl⟩

end Sys2Proof
end

section
/-! SEARCH and SEARCH_RESET where no device is found (`41_rom_search.md` R124 to R126): the two forms that issue no pin
primitive, and the walk in an environment without reference devices, position by position, up to a 1/1 pair. -/

namespace Sys2Proof.Machine

/-! ## Operations that only reset the cursor (R124, R126) -/

/-- An operation whose steps do no more than reset the cursor ends silently. -/
theorem endsSilently_of_searchReset {α : Type} {mk : α → Response} {op : State → Result α} {i : Instr}
    {s : State} {a : α} {r : Response} (hexec : exec i s = operate mk op s)
    (hop : op (accept s) = .ok a (searchReset (accept s))) (hr : mk a = r) :
    ∃ t, EndsSilently i s t r ∧ t.search = ⟨0, 0, 0, false⟩ ∧ t.draws = s.draws := by
  have hrun : exec i s = .next (respond r (searchReset (accept s))) := by rw [hexec, operate, hop, finish_ok, hr]
  exact ⟨_, ⟨hrun, rfl, rfl, rfl, rfl, rfl⟩, rfl, rfl⟩

/-- The exhausted call (R124). -/
theorem search_exhausted {s : State} (h : s.search.lastDeviceFlag = true) : search s = .ok none (searchReset s) := by
  rw [search, if_pos h]

/-! ## The coming answers without reference devices -/

/-- `e'` is `e` after `n` answers, as far as the coming answers go, and neither has reference devices. -/
structure Env.FreeAfter (e : Env) (n : Nat) (e' : Env) : Prop where
  remote  : e.remote = none
  remote' : e'.remote = none
  script  : e'.script = e.script.drop n
  asked   : e'.asked = e.asked + n

theorem Env.FreeAfter.trans {e e' e'' : Env} {m n : Nat} (h : e.FreeAfter m e') (g : e'.FreeAfter n e'') :
    e.FreeAfter (m + n) e'' where
  remote  := h.remote
  remote' := g.remote'
  script  := by rw [g.script, h.script, List.drop_drop]
  asked   := by rw [g.asked, h.asked, Nat.add_assoc]

theorem Env.FreeAfter.faultAt {e e' : Env} {n : Nat} (h : e.FreeAfter n e') (k : Nat) :
    e'.faultAt k = e.faultAt (n + k) := by
  rw [← faultAt_advance]
  exact faultAt_congr h.script h.asked (by rw [h.remote', advance_remote, h.remote]) k

theorem Env.FreeAfter.levelAt {e e' : Env} {n : Nat} (h : e.FreeAfter n e') (k : Nat) (dr : Drive)
    (kind : SampleKind) : e'.levelAt k dr kind = e.levelAt (n + k) dr kind := by
  rw [← levelAt_advance]
  exact levelAt_ext h.script h.asked (by rw [h.remote', advance_remote, h.remote]) k dr kind

theorem Env.FreeAfter.unfaulted {e e' : Env} {m n : Nat} (h : e.FreeAfter m e') (hu : e.Unfaulted (m + n)) :
    e'.Unfaulted n := by
  intro k hk
  rw [h.faultAt]
  exact hu _ (by omega)

/-- The probe bits of position `j + k + 1` are those of position `k + 1` after `j` positions. -/
theorem Env.FreeAfter.probe {e e' : Env} {n base j : Nat} (h : e.FreeAfter n e') (hn : n = base + 8 * j) (k : Nat) :
    e'.probe 0 k = e.probe base (j + k) := by
  subst hn
  simp only [Env.probe, h.levelAt]
  congr 3 <;> omega

theorem afterSlot_freeAfter {s : State} (hr : s.env.remote = none) (x : Slot) :
    s.env.FreeAfter (slotPrimitives x) (afterSlot s x).env :=
  ⟨hr, afterSlot_remote_none hr x, afterSlot_script s x, afterSlot_asked s x⟩

theorem afterSlots_freeAfter {xs : List Slot} {n : Nat} (hn : (xs.map slotPrimitives).sum = n) {s : State}
    (hr : s.env.remote = none) : s.env.FreeAfter n (afterSlots s xs).env := by
  subst hn
  induction xs generalizing s with
  | nil => exact ⟨hr, hr, rfl, rfl⟩
  | cons x xs ih =>
    have hx := afterSlot_freeAfter hr x
    exact hx.trans (ih hx.remote')

theorem afterLowPolls_remote_none (p : Nat) {s : State} (hr : s.env.remote = none) :
    (afterLowPolls p s).env.remote = none := by
  induction p generalizing s with
  | zero => exact hr
  | succ p ih => exact ih (by simp [afterLowPoll, hold, Env.answered, hr])

theorem afterPoll_freeAfter {s : State} (hr : s.env.remote = none) (p : Nat) :
    s.env.FreeAfter (p + 1) (afterPoll s p).env := by
  obtain ⟨-, -, -, -, -, -, hscript, hasked, -, -⟩ := afterLowPolls_spec p s
  have hr' := afterLowPolls_remote_none p hr
  constructor <;> simp [afterPoll, Env.answered, hr, hr', hscript, hasked, Nat.add_assoc]

/-! ## One position of the walk -/

/-- Without reference devices, a read slot that is not faulted yields its sample. -/
theorem readBit_sampled {s : State} (hr : s.env.remote = none) (hu : s.env.Unfaulted 3) :
    readBit s = .ok (s.env.levelAt 2 .released .read).toBool
      (afterSlot s (.read (s.env.levelAt 2 .released .read).toBool)) := by
  obtain ⟨l, hb, hl⟩ := readBit_unfaulted hu
  have hsample : l = s.env.levelAt 2 .released .read :=
    (hl (.inr hr)).trans (levelAt_ext (by simp) (by simp) (by simp [hr]) _ _ _)
  rw [hb, hsample]

/-- The two probe slots of a position, before whatever is done with their bits. -/
theorem readProbe_andThen {α : Type} {f : Bool → Bool → State → Result α} {s : State} {a b : Bool}
    (hr : s.env.remote = none) (hu : s.env.Unfaulted 6) (hp : s.env.probe 0 0 = (a, b)) :
    ((readBit s).andThen fun a s => (readBit s).andThen fun b s => f a b s) =
      f a b (afterSlots s [.read a, .read b]) := by
  obtain ⟨rfl, rfl⟩ := Prod.mk.inj hp
  have h := afterSlot_freeAfter hr (.read (s.env.levelAt 2 .released .read).toBool)
  rw [readBit_sampled hr (fun k hk => hu k (by omega)), andThen_ok, readBit_sampled h.remote' (h.unfaulted hu),
    andThen_ok, h.levelAt]
  rfl

theorem afterSlots_setSearch (c : SearchState) (s : State) (xs : List Slot) :
    afterSlots (setSearch c s) xs = setSearch c (afterSlots s xs) := by
  induction xs generalizing s with
  | nil => rfl
  | cons x xs ih => exact ih (afterSlot s x)

/-- Position `k + 1`, where a device responds, is one triplet, after which the walk goes on (R121). -/
theorem searchWalk_triplet {s : State} {k lastZero lastZero' : Nat} {a b dir : Bool} {c : SearchState} (hk : k < 64)
    (hr : s.env.remote = none) (hu : s.env.Unfaulted 8) (hp : s.env.probe 0 0 = (a, b))
    (hd : decideBit s.search (k + 1) lastZero a b = some (dir, c, lastZero')) :
    searchWalk (64 - k) lastZero s =
      searchWalk (64 - (k + 1)) lastZero'
        (setSearch (recordDir c (k + 1) dir) (afterSlots s [.read a, .read b, .write dir])) := by
  have hleft : 64 - k = 64 - (k + 1) + 1 := by omega
  have hpos : 64 - (64 - (k + 1)) = k + 1 := by omega
  have hd' : decideBit (afterSlots s [.read a, .read b]).search (k + 1) lastZero a b = some (dir, c, lastZero') := hd
  have h := afterSlots_freeAfter (xs := [.read a, .read b]) rfl hr
  have hw := writeBit_unfaulted (s := setSearch (recordDir c (k + 1) dir) (afterSlots s [.read a, .read b])) dir
    (h.unfaulted hu)
  rw [hleft, searchWalk, readProbe_andThen hr (fun k hk => hu k (by omega)) hp]
  simp only [hpos, hd', hw, andThen_ok]
  rfl

/-- Position `k + 1`, where no device responds, ends the walk, with no write slot (R125). -/
theorem searchWalk_noCandidate {s : State} {k lastZero : Nat} (hk : k < 64) (hr : s.env.remote = none)
    (hu : s.env.Unfaulted 6) (hp : s.env.probe 0 0 = (true, true)) :
    searchWalk (64 - k) lastZero s = .ok none (afterSlots s [.read true, .read true]) := by
  have hleft : 64 - k = 64 - (k + 1) + 1 := by omega
  rw [hleft, searchWalk, readProbe_andThen hr hu hp]
  rfl

/-! ## The directions of a walk (R122) -/

/-- As far as the decisions from position `k + 1` on go, the cursor `c'` of a walk is the cursor `c` before it: the
walk has written only the bits of `rom_no` before that position. -/
structure SearchState.Undecided (c : SearchState) (k : Nat) (c' : SearchState) : Prop where
  lastDiscrepancy : c'.lastDiscrepancy = c.lastDiscrepancy
  romNo           : ∀ i, k ≤ i → c'.romNo.getLsbD i = c.romNo.getLsbD i

theorem getLsbD_setBit_ne {w : Nat} (x : BitVec w) {i j : Nat} (b : Bool) (h : i ≠ j) :
    (setBit x i b).getLsbD j = x.getLsbD j := by
  cases b
  · by_cases hj : j < w
    · simp [setBit, hj, h.symm]
    · simp [setBit, BitVec.getLsbD_of_ge _ _ (Nat.le_of_not_lt hj)]
  · simp [setBit, BitVec.getLsbD_twoPow, h]

theorem SearchState.Undecided.recordDir {c c' : SearchState} {k : Nat} (h : c.Undecided k c') (dir : Bool) :
    c.Undecided (k + 1) (recordDir c' (k + 1) dir) where
  lastDiscrepancy := h.lastDiscrepancy
  romNo i hi := (getLsbD_setBit_ne c'.romNo dir (by omega)).trans (h.romNo i (by omega))

/-- At a position where a device responds, the walk decides the direction `chosenDir` says. -/
theorem decideBit_chosenDir {c c' : SearchState} {probe : Nat → Bool × Bool} {k : Nat} (lastZero : Nat)
    (h : c.Undecided k c') (hp : probe k ≠ (true, true)) :
    ∃ c'' lastZero', decideBit c' (k + 1) lastZero (probe k).1 (probe k).2 =
      some (chosenDir c probe k, c'', lastZero') ∧ c.Undecided k c'' := by
  have hbranch : branchDir c' (k + 1) =
      if k + 1 < c.lastDiscrepancy.toNat then c.romNo.getLsbD k else k + 1 == c.lastDiscrepancy.toNat := by
    rw [branchDir, h.lastDiscrepancy, Nat.add_sub_cancel, h.romNo k (Nat.le_refl k)]
  rcases hpk : probe k with ⟨_ | _, _ | _⟩
  · rw [chosenDir, hpk]
    dsimp only [decideBit]
    rw [← hbranch]
    split_ifs with hdir hfamily
    · exact ⟨_, _, by rw [hdir], h⟩
    · refine ⟨_, _, by rw [Bool.eq_false_of_not_eq_true hdir], ?_⟩
      exact ⟨h.lastDiscrepancy, h.romNo⟩
    · exact ⟨_, _, by rw [Bool.eq_false_of_not_eq_true hdir], h⟩
  · exact ⟨_, _, by rw [chosenDir, hpk]; rfl, h⟩
  · exact ⟨_, _, by rw [chosenDir, hpk]; rfl, h⟩
  · exact absurd hpk hp

theorem tripletSlots_succ (c : SearchState) (probe : Nat → Bool × Bool) (k : Nat) :
    tripletSlots c probe (k + 1) =
      tripletSlots c probe k ++ [.read (probe k).1, .read (probe k).2, .write (chosenDir c probe k)] := by
  simp [tripletSlots, List.range_succ]

theorem slotPrimitives_tripletSlots (c : SearchState) (probe : Nat → Bool × Bool) (k : Nat) :
    ((tripletSlots c probe k).map slotPrimitives).sum = 8 * k := by
  induction k with
  | zero => rfl
  | succ k ih =>
    rw [tripletSlots_succ, List.map_append, List.sum_append, ih]
    rfl

/-- As long as a device responds, the walk makes the triplets of the chosen directions, position by position. -/
theorem searchWalk_triplets {s : State} (hr : s.env.remote = none) (k : Nat) (hk : k ≤ 64)
    (hu : s.env.Unfaulted (8 * k)) (hp : ∀ j, j < k → s.env.probe 0 j ≠ (true, true)) :
    ∃ c lastZero, s.search.Undecided k c ∧ searchWalk 64 0 s =
      searchWalk (64 - k) lastZero (setSearch c (afterSlots s (tripletSlots s.search (s.env.probe 0) k))) := by
  induction k with
  | zero => exact ⟨s.search, 0, ⟨rfl, fun _ _ => rfl⟩, rfl⟩
  | succ k ih =>
    obtain ⟨c, lastZero, hc, hwalk⟩ := ih (by omega) (fun i hi => hu i (by omega)) fun j hj => hp j (by omega)
    have h := afterSlots_freeAfter (slotPrimitives_tripletSlots s.search (s.env.probe 0) k) hr
    have hprobe := h.probe (base := 0) (j := k) (by omega) 0
    obtain ⟨c', lastZero', hd, hc'⟩ := decideBit_chosenDir lastZero hc (hp k (by omega))
    refine ⟨recordDir c' (k + 1) (chosenDir s.search (s.env.probe 0) k), lastZero', hc'.recordDir _, ?_⟩
    rw [hwalk, searchWalk_triplet (s := setSearch c _) (by omega) h.remote' (h.unfaulted hu) hprobe hd,
      tripletSlots_succ, afterSlots_append, afterSlots_setSearch]
    rfl

/-- After `k` positions where a device responds and one where none does, the walk is over (R125). -/
theorem searchWalk_stops {s : State} {k : Nat} (hr : s.env.remote = none) (hk : k < 64)
    (hu : s.env.Unfaulted (8 * k + 6)) (hp : ∀ j, j < k → s.env.probe 0 j ≠ (true, true))
    (hstop : s.env.probe 0 k = (true, true)) :
    ∃ c, searchWalk 64 0 s = .ok none (setSearch c
      (afterSlots s (tripletSlots s.search (s.env.probe 0) k ++ [.read true, .read true]))) := by
  obtain ⟨c, lastZero, -, hwalk⟩ := searchWalk_triplets hr k hk.le (fun i hi => hu i (by omega)) hp
  have h := afterSlots_freeAfter (slotPrimitives_tripletSlots s.search (s.env.probe 0) k) hr
  have hprobe := (h.probe (base := 0) (j := k) (by omega) 0).trans hstop
  exact ⟨c, by rw [hwalk, searchWalk_noCandidate (s := setSearch c _) hk h.remote' (h.unfaulted hu) hprobe,
    afterSlots_setSearch, afterSlots_append]⟩

/-! ## The whole pass without a candidate (R125) -/

/-- The slots of a pass that ends without a candidate at position `k + 1`, after its reset slot. -/
def noCandidateSlots (c : SearchState) (probe : Nat → Bool × Bool) (k : Nat) : List Slot :=
  w8 Config.cmdSearchRom ++ tripletSlots c probe k ++ [.read true, .read true]

/-- SEARCH on a ready line, up to the position where no device responds: the cursor is reset, and nothing found. -/
theorem search_noCandidate {s : State} {p k : Nat} (hr : s.env.remote = none)
    (hflag : s.search.lastDeviceFlag = false) (hk : k < 64) (hready : LineReady s p (20 + 8 * k + 6))
    (hp : ∀ j, j < k → s.env.probe (p + 20) j ≠ (true, true)) (hstop : s.env.probe (p + 20) k = (true, true)) :
    search s = .ok none (searchReset (afterSlots (afterSlot (afterPoll s p) (.reset true))
      (noCandidateSlots s.search (s.env.probe (p + 20)) k))) := by
  obtain ⟨hi, hpresent, hu⟩ := hready
  have hreset : s.env.FreeAfter (p + 4) (afterSlot (afterPoll s p) (.reset true)).env :=
    (afterPoll_freeAfter hr p).trans (afterSlot_freeAfter (afterPoll_freeAfter hr p).remote' (.reset true))
  have h : s.env.FreeAfter (p + 20) _ :=
    hreset.trans (afterSlots_freeAfter (slotPrimitives_w8 Config.cmdSearchRom) hreset.remote')
  have hprobe : Env.probe _ 0 = s.env.probe (p + 20) :=
    funext fun j => (h.probe (j := 0) rfl j).trans (by rw [Nat.zero_add])
  obtain ⟨hsearch, -⟩ := afterSlots_spec (w8 Config.cmdSearchRom) (afterSlot (afterPoll s p) (.reset true))
  obtain ⟨hpoll, -⟩ := afterPoll_spec s p
  rw [afterSlot_search, hpoll] at hsearch
  obtain ⟨c, hwalk⟩ := searchWalk_stops h.remote' hk (h.unfaulted fun i hi => hu i (by omega))
    (by rw [hprobe]; exact hp) (by rw [hprobe]; exact hstop)
  rw [hprobe, hsearch] at hwalk
  rw [search, hflag, if_neg Bool.false_ne_true, busReset_idle hi (fun i hi => hu i (by omega)), hpresent,
    presentFlag_low, if_pos rfl, andThen_ok, searchPass,
    writeByte_unfaulted _ (hreset.unfaulted fun i hi => hu i (by omega)), andThen_ok, hwalk, andThen_ok,
    noCandidateSlots, List.append_assoc, afterSlots_append _ (w8 _)]
  rfl

/-- After slots the last of which is a read slot, the line is released and no critical section open. -/
theorem afterSlots_append_read_pin (s : State) (xs : List Slot) (b : Bool) :
    (afterSlots s (xs ++ [.read b])).pin =
      ⟨.released, false, s.pin.trace ++ slotEvents s (xs ++ [.read b]), s.pin.slots ++ (xs ++ [.read b])⟩ := by
  obtain ⟨-, -, -, hparams, -, htrace, hslots, -⟩ := afterSlots_spec xs s
  rw [afterSlots_append, afterSlots_cons, afterSlots_nil, afterSlot, htrace, hslots, hparams]
  simp

/-- The pin after a pass without a candidate. -/
theorem noCandidate_pin (s : State) (p k : Nat) (c : SearchState) (probe : Nat → Bool × Bool) :
    (afterSlots (afterSlot (afterPoll s p) (.reset true)) (noCandidateSlots c probe k)).pin =
      ⟨.released, false, s.pin.trace ++ (pollEvents s.params.timing p ++
        slotEvents s (.reset true :: noCandidateSlots c probe k)),
        s.pin.slots ++ .reset true :: noCandidateSlots c probe k⟩ := by
  obtain ⟨-, -, -, hparams, -⟩ := afterPoll_spec s p
  have hslots : noCandidateSlots c probe k = (w8 Config.cmdSearchRom ++ tripletSlots c probe k ++ [.read true]) ++
      [.read true] := by simp [noCandidateSlots]
  rw [hslots, afterSlots_append_read_pin, afterPoll_reset_pin]
  simp [slotEvents, hparams]

end Sys2Proof.Machine

namespace Sys2Proof

open Machine

/-- Settles O28: the exhausted call resets the cursor and does no more (`search_exhausted`). -/
theorem searchExhausted : Obligations.SearchExhausted := fun s h =>
  endsSilently_of_searchReset (mk := .ofSearch) rfl (search_exhausted (s := accept s) h) rfl

/-- Settles O29: SEARCH_RESET resets the cursor and does no more. -/
theorem searchResetClears : Obligations.SearchResetClears := fun _ =>
  endsSilently_of_searchReset (mk := fun _ => .done) (op := fun s => .ok () (searchReset s)) rfl rfl rfl

/-- Settles O31: the pass up to the 1/1 pair by `search_noCandidate`, an induction on the positions before it. -/
theorem searchNoCandidate : Obligations.SearchNoCandidate := by
  intro s p k hr hflag hk hready hp hstop
  have hop := search_noCandidate (s := accept s) hr hflag hk hready hp hstop
  have hpin := noCandidate_pin (accept s) p k (accept s).search ((accept s).env.probe (p + 20))
  obtain ⟨-, hport, hhost, hparams, hdraws, -, -, -⟩ := afterSlots_spec
    (noCandidateSlots (accept s).search ((accept s).env.probe (p + 20)) k)
    (afterSlot (afterPoll (accept s) p) (.reset true))
  obtain ⟨-, hport', hhost', hparams', hdraws', -⟩ := afterPoll_spec (accept s) p
  have hrun : exec .search s = .next (finish .ofSearch (search (accept s))) := rfl
  rw [hop, finish_ok] at hrun
  have hslots := congrArg Pin.slots hpin
  refine ⟨_, hrun, ?_, rfl, ?_, hslots, hdraws.trans hdraws', hhost.trans hhost', hparams.trans hparams'⟩
  · rw [Delivered, respond, searchReset_port, hport, afterSlot_port, hport']
    rfl
  · rw [respond_pin, searchReset_pin, hslots]
    exact hpin

end Sys2Proof
end

section
/-! The Address check (`42_crc8.md` R142, R143): `check_crc` by its trailing byte, and CRC_CHECK_ADDR, whose steps leave
the state alone whichever way they end. -/

namespace Sys2Proof.Machine

/-! ## `check_crc` by its trailing byte (R142) -/

theorem bytesOf_succ {w : Nat} (n : Nat) (x : BitVec w) : bytesOf (n + 1) x = bytesOf n x ++ [byteAt x n] := by
  simp [bytesOf, List.range_succ]

theorem crcOk_concat (bytes : List Byte) (c : Byte) : crcOk (bytes ++ [c]) = (crc8 bytes == c) := by
  simp [crcOk]

theorem checkCrc_concat (bytes : List Byte) (c : Byte) (s : State) :
    checkCrc (bytes ++ [c]) s = if crc8 bytes = c then .ok () s else .raised .crcMismatch s := by
  simp [checkCrc, crcOk_concat]

/-- The trailing byte of an Address is its byte 7. -/
theorem checkCrc_addressBytes (a : Address) (s : State) :
    checkCrc (addressBytes a) s =
      if crc8 (bytesOf 7 a) = byteAt a 7 then .ok () s else .raised .crcMismatch s := by
  rw [addressBytes, bytesOf_succ, checkCrc_concat]

/-! ## Operations whose steps leave the state alone -/

/-- An error raised outside a critical section is only its response (`60_exceptions.md` R190). -/
theorem deliverError_of_not_crit {s : State} (e : Err) (h : s.pin.crit = false) :
    deliverError e s = respond (.ofErr s.params e) s := by
  simp [deliverError, h]

/-- An operation whose end is only a response ends silently, and keeps the cursor and its draws. -/
theorem endsSilently_of_respond {α : Type} {mk : α → Response} {op : State → Result α} {i : Instr} {s : State}
    {r : Response} (hexec : exec i s = operate mk op s) (hend : finish mk (op (accept s)) = respond r (accept s)) :
    ∃ t, EndsSilently i s t r ∧ t.search = s.search ∧ t.draws = s.draws := by
  have hrun : exec i s = .next (respond r (accept s)) := by rw [hexec, operate, hend]
  exact ⟨_, ⟨hrun, rfl, rfl, rfl, rfl, rfl⟩, rfl, rfl⟩

end Sys2Proof.Machine

namespace Sys2Proof

open Machine

/-- Settles O37: either way `check_crc` ends (`checkCrc_addressBytes`), the operation's end is only its response; the
two corner cases by evaluation. -/
theorem crcCheckAddrAnswers : Obligations.CrcCheckAddrAnswers := by
  refine ⟨fun s a hcrit => endsSilently_of_respond (mk := fun _ => .done) rfl ?_,
    by decide +kernel, by decide +kernel⟩
  rw [checkCrc_addressBytes, bytesOf]
  split_ifs with hcrc
  · rfl
  · rw [finish_raised, deliverError_of_not_crit (s := accept s) _ hcrit]
    rfl

end Sys2Proof
end

section
/-! The family check (`43_ds18b20.md` R150): where it fails, each sub-operation of the sensor driver raises
`FamilyCodeMismatch` in the state it was given. -/

namespace Sys2Proof.Machine

/-! ## The sub-operations on a device of another family -/

theorem checkFamily_otherFamily {a : Address} (ha : byteAt a 0 ≠ 0x28) (s : State) :
    checkFamily a s = .raised .familyCodeMismatch s := if_neg ha

theorem readScratchpad_otherFamily {a : Address} (ha : byteAt a 0 ≠ 0x28) (s : State) :
    readScratchpad a s = .raised .familyCodeMismatch s := by
  rw [readScratchpad, checkFamily_otherFamily ha, andThen_raised]

theorem writeScratchpad_otherFamily {a : Address} (ha : byteAt a 0 ≠ 0x28) (th tl cfg : Byte) (s : State) :
    writeScratchpad a th tl cfg s = .raised .familyCodeMismatch s := by
  rw [writeScratchpad, checkFamily_otherFamily ha, andThen_raised]

theorem getResolution_otherFamily {a : Address} (ha : byteAt a 0 ≠ 0x28) (s : State) :
    getResolution a s = .raised .familyCodeMismatch s := by
  rw [getResolution, readScratchpad_otherFamily ha, andThen_raised]

theorem setResolution_otherFamily {a : Address} (ha : byteAt a 0 ≠ 0x28) (r : Resolution) (s : State) :
    setResolution a r s = .raised .familyCodeMismatch s := by
  rw [setResolution, readScratchpad_otherFamily ha, andThen_raised]

theorem startMeasurement_otherFamily {a : Address} (ha : byteAt a 0 ≠ 0x28) (s : State) :
    startMeasurement (.device a) s = .raised .familyCodeMismatch s := by
  simp only [startMeasurement, checkFamily_otherFamily ha, andThen_raised]

theorem readTemp_otherFamily {a : Address} (ha : byteAt a 0 ≠ 0x28) (r : Resolution) (s : State) :
    readTemp a r s = .raised .familyCodeMismatch s := by
  rw [readTemp, readScratchpad_otherFamily ha, andThen_raised]

/-! ## The operations -/

/-- A MEASURE whose start raises an error does not reach its wait: it is the targeted START_MEASUREMENT (R166). -/
theorem exec_measure_of_raised {a : Address} {r : Resolution} {s u : State} {e : Err}
    (h : startMeasurement (.device a) (accept s) = .raised e u) :
    exec (.measure a r) s = exec (.startMeasurementMatch a) s := by
  have hmeasure : measure ⟨a, r⟩ (accept s) = deliverError e u := by rw [measure, h]
  calc exec (.measure a r) s
    _ = .next (measure ⟨a, r⟩ (accept s)) := rfl
    _ = .next (finish (fun _ => .done) (startMeasurement (.device a) (accept s))) := by
        rw [hmeasure, h, finish_raised]
    _ = exec (.startMeasurementMatch a) s := rfl

/-- An operation whose steps raise an error in the state they were given ends silently with that error. -/
theorem endsSilently_of_raised {α : Type} {mk : α → Response} {op : State → Result α} {i : Instr} {s : State}
    {e : Err} (hexec : exec i s = operate mk op s) (hop : ∀ s, op s = .raised e s) (hcrit : s.pin.crit = false) :
    ∃ t, EndsSilently i s t (.ofErr s.params e) ∧ t.search = s.search ∧ t.draws = s.draws := by
  refine endsSilently_of_respond hexec ?_
  rw [hop, finish_raised, deliverError_of_not_crit (s := accept s) e hcrit]
  rfl

end Sys2Proof.Machine

namespace Sys2Proof

open Machine

/-- Settles O42, by the keyed operations: the steps of each raise `FamilyCodeMismatch` at once, and MEASURE ends as
START_MEASUREMENT does. -/
theorem familyCheckComesFirst : Obligations.FamilyCheckComesFirst := by
  intro i a s hkeyed ha hcrit
  have hstart := startMeasurement_otherFamily ha
  cases hkeyed with
  | readScratchpad => exact endsSilently_of_raised rfl (readScratchpad_otherFamily ha) hcrit
  | writeScratchpad th tl cfg =>
    exact endsSilently_of_raised (mk := fun _ => .done) rfl (writeScratchpad_otherFamily ha th tl cfg) hcrit
  | getResolution => exact endsSilently_of_raised rfl (getResolution_otherFamily ha) hcrit
  | setResolution r =>
    exact endsSilently_of_raised (mk := fun _ => .done) rfl (setResolution_otherFamily ha r) hcrit
  | startMeasurement => exact endsSilently_of_raised (mk := fun _ => .done) rfl hstart hcrit
  | readTemp r => exact endsSilently_of_raised rfl (readTemp_otherFamily ha r) hcrit
  | measure r =>
    exact endsSilently_of_raised (mk := fun _ => .done) (exec_measure_of_raised (hstart (accept s))) hstart hcrit

end Sys2Proof
end

section
/-! `decode_temp` as arithmetic on signed numbers (`43_ds18b20.md` R162, R170): the mask rounds toward minus infinity,
and the shift by the additional fractional bits loses nothing in a legal format. -/

namespace Sys2Proof.Machine

/-- A left shift is a multiplication, of signed numbers too, where the product is in range. -/
theorem toInt_shiftLeft_of_inRange {w n : Nat} {x : BitVec w} (hlow : -2 ^ w ≤ x.toInt * 2 ^ n * 2)
    (hhigh : x.toInt * 2 ^ n * 2 < 2 ^ w) : (x <<< n).toInt = x.toInt * 2 ^ n := by
  have hmod : (x <<< n).toInt = (x.toInt * 2 ^ n).bmod (2 ^ w) := by
    rw [BitVec.toInt_shiftLeft, BitVec.toInt_eq_toNat_bmod, Int.bmod_mul_bmod, Nat.shiftLeft_eq]
    push_cast
    rfl
  rw [hmod, Int.bmod_eq_of_le_mul_two (by push_cast; exact hlow) (by push_cast; exact hhigh)]

/-! ## The mask (R162, R168) -/

/-- The mask keeps the bits from the resolution's step up. -/
theorem getElem_mask (r : Resolution) {i : Nat} (hi : i < 16) : r.mask[i] = decide (12 - r.bits ≤ i) := by
  have hones : 0xFFFF#16 = BitVec.allOnes 16 := rfl
  rw [Resolution.mask, hones, BitVec.getElem_shiftLeft, BitVec.getElem_allOnes, Bool.and_true, ← decide_not,
    decide_eq_decide, Nat.not_lt]

/-- The bits the mask clears are those that an arithmetic shift to the right and back loses. -/
theorem and_mask_eq_shifts (raw : BitVec 16) (r : Resolution) :
    raw &&& r.mask = raw.sshiftRight (12 - r.bits) <<< (12 - r.bits) := by
  ext i hi
  rw [BitVec.getElem_and, getElem_mask r hi, BitVec.getElem_shiftLeft]
  by_cases hkept : 12 - r.bits ≤ i
  · simp [BitVec.getElem_sshiftRight, hkept, hi]
  · simp [hkept, Nat.lt_of_not_le hkept]

/-- The masked raw value is the raw value rounded down to a multiple of the resolution's step. -/
theorem toInt_and_mask (raw : BitVec 16) (r : Resolution) :
    (raw &&& r.mask).toInt = raw.toInt / 2 ^ (12 - r.bits) * 2 ^ (12 - r.bits) := by
  have hshift : (raw.sshiftRight (12 - r.bits)).toInt = raw.toInt / 2 ^ (12 - r.bits) := by
    rw [BitVec.toInt_sshiftRight, Int.shiftRight_eq_div_pow]
    push_cast
    rfl
  have hrange : -2 ^ 16 ≤ raw.toInt / 2 ^ (12 - r.bits) * 2 ^ (12 - r.bits) * 2 ∧
      raw.toInt / 2 ^ (12 - r.bits) * 2 ^ (12 - r.bits) * 2 < 2 ^ 16 := by
    have hlow : -2 ^ 15 ≤ raw.toInt := raw.le_toInt
    have hhigh : raw.toInt < 2 ^ 15 := raw.toInt_lt
    cases r <;> simp only [Resolution.bits] <;> omega
  rw [← hshift] at hrange ⊢
  obtain ⟨hlow, hhigh⟩ := hrange
  rw [and_mask_eq_shifts, toInt_shiftLeft_of_inRange hlow hhigh]

/-! ## The shift (R162) -/

/-- In a legal format no bit of the raw value is lost. -/
theorem decodeTempBits_toInt {f w : Nat} (hf : 4 ≤ f) (hw : 12 + f ≤ w) (raw : BitVec 16) (r : Resolution) :
    (decodeTempBits f w raw r).toInt = (raw &&& r.mask).toInt * 2 ^ (f - 4) := by
  have hext : ((raw &&& r.mask).signExtend w).toInt = (raw &&& r.mask).toInt :=
    BitVec.toInt_signExtend_of_le (by omega)
  have hformat : (2 : Int) ^ 16 * 2 ^ (f - 4) ≤ 2 ^ w := by
    rw [← pow_add]
    exact pow_le_pow_right₀ (by decide) (by omega)
  have hlow : -2 ^ 15 * 2 ^ (f - 4) ≤ (raw &&& r.mask).toInt * 2 ^ (f - 4) :=
    mul_le_mul_of_nonneg_right (BitVec.le_toInt _) (by positivity)
  have hhigh : (raw &&& r.mask).toInt * 2 ^ (f - 4) < 2 ^ 15 * 2 ^ (f - 4) :=
    mul_lt_mul_of_pos_right BitVec.toInt_lt (by positivity)
  rw [← hext] at hlow hhigh ⊢
  exact toInt_shiftLeft_of_inRange (by linarith) (by linarith)

end Sys2Proof.Machine

namespace Sys2Proof

open Machine

/-- Settles O54: the scaling is `decodeTempBits_toInt`; the three bounds are those of a division rounded down, which
the mask is (`toInt_and_mask`). -/
theorem decodeTempIsExact : Obligations.DecodeTempIsExact := by
  intro p sp r ⟨hf, hw⟩
  have hstep : (0 : Int) < 2 ^ (12 - r.bits) := by positivity
  refine ⟨decodeTempBits_toInt hf hw _ r, ?_⟩
  rw [toInt_and_mask]
  refine ⟨Int.dvd_mul_left _ _, Int.ediv_mul_le _ hstep.ne', ?_⟩
  have hnext := Int.lt_ediv_add_one_mul_self (rawTemp (sp.getD 0 0) (sp.getD 1 0)).toInt hstep
  rwa [add_one_mul] at hnext

end Sys2Proof
end

section
/-! Errors of the reset slot (`60_exceptions.md` R181, R183 (a)): an operation that starts with one ends where its RESET
does, nothing written after it, and outside a search it is then the operation RESET. -/

namespace Sys2Proof.Machine

/-! ## The sub-operations after a reset slot that raises an error -/

section
variable {s u : State} {e : Err} {a : Address}

theorem sendCommand_of_reset_raised (h : busReset s = .raised e u) (t : Target) (c : Byte) :
    sendCommand t c s = .raised e u := by
  rw [sendCommand, h, andThen_raised]

/-- A search draws the SearchState for each error a RESET can raise (`41_rom_search.md` R128). -/
theorem search_of_reset_raised (hflag : s.search.lastDeviceFlag = false) (h : busReset s = .raised e u)
    (he : e.drawsSearch = true) : search s = .raised e (drawSearch u) := by
  rw [search, hflag, if_neg Bool.false_ne_true, h, andThen_raised, searchExit, if_pos he]

theorem checkFamily_ownFamily (ha : byteAt a 0 = Config.familyCode) (s : State) : checkFamily a s = .ok () s :=
  if_pos ha

theorem readScratchpad_of_reset_raised (ha : byteAt a 0 = Config.familyCode) (h : busReset s = .raised e u) :
    readScratchpad a s = .raised e u := by
  rw [readScratchpad, checkFamily_ownFamily ha, andThen_ok, sendCommand_of_reset_raised h, andThen_raised]

theorem writeScratchpad_of_reset_raised (ha : byteAt a 0 = Config.familyCode) (h : busReset s = .raised e u)
    (th tl cfg : Byte) : writeScratchpad a th tl cfg s = .raised e u := by
  rw [writeScratchpad, checkFamily_ownFamily ha, andThen_ok, sendCommand_of_reset_raised h, andThen_raised]

theorem getResolution_of_reset_raised (ha : byteAt a 0 = Config.familyCode) (h : busReset s = .raised e u) :
    getResolution a s = .raised e u := by
  rw [getResolution, readScratchpad_of_reset_raised ha h, andThen_raised]

theorem setResolution_of_reset_raised (ha : byteAt a 0 = Config.familyCode) (h : busReset s = .raised e u)
    (r : Resolution) : setResolution a r s = .raised e u := by
  rw [setResolution, readScratchpad_of_reset_raised ha h, andThen_raised]

theorem startMeasurement_skip_of_reset_raised (h : busReset s = .raised e u) :
    startMeasurement .skip s = .raised e u :=
  sendCommand_of_reset_raised h .skip Config.cmdConvertT

theorem startMeasurement_device_of_reset_raised (ha : byteAt a 0 = Config.familyCode) (h : busReset s = .raised e u) :
    startMeasurement (.device a) s = .raised e u := by
  simp only [startMeasurement, checkFamily_ownFamily ha, andThen_ok, sendCommand_of_reset_raised h]

theorem readTemp_of_reset_raised (ha : byteAt a 0 = Config.familyCode) (h : busReset s = .raised e u)
    (r : Resolution) : readTemp a r s = .raised e u := by
  rw [readTemp, readScratchpad_of_reset_raised ha h, andThen_raised]

end

/-! ## The operations -/

theorem operate_of_raised {α : Type} {mk : α → Response} {op : State → Result α} {s u : State} {e : Err}
    (h : op (accept s) = .raised e u) : operate mk op s = .next (deliverError e u) := by
  rw [operate, h, finish_raised]

/-- Outside a search, an operation whose reset slot raises an error is RESET: it delivers that error. -/
theorem exec_eq_reset_of_reset_raised {i : Instr} {s u : State} {e : Err} (hi : startsWithReset s.search i = true)
    (hsearch : i ≠ .search) (h : busReset (accept s) = .raised e u) : exec i s = exec .reset s := by
  have hreset : exec .reset s = .next (deliverError e u) := operate_of_raised h
  rw [hreset]
  cases i with
  | reset => exact hreset
  | sendCommandSkip c => exact operate_of_raised (sendCommand_of_reset_raised h .skip c)
  | sendCommandMatch a c => exact operate_of_raised (sendCommand_of_reset_raised h (.device a) c)
  | search => exact absurd rfl hsearch
  | readScratchpad a => exact operate_of_raised (readScratchpad_of_reset_raised (eq_of_beq hi) h)
  | writeScratchpad a th tl cfg =>
    exact operate_of_raised (writeScratchpad_of_reset_raised (eq_of_beq hi) h th tl cfg)
  | getResolution a => exact operate_of_raised (getResolution_of_reset_raised (eq_of_beq hi) h)
  | setResolution a r => exact operate_of_raised (setResolution_of_reset_raised (eq_of_beq hi) h r)
  | startMeasurementSkip => exact operate_of_raised (startMeasurement_skip_of_reset_raised h)
  | startMeasurementMatch a => exact operate_of_raised (startMeasurement_device_of_reset_raised (eq_of_beq hi) h)
  | readTemp a r => exact operate_of_raised (readTemp_of_reset_raised (eq_of_beq hi) h r)
  | measure a r =>
    have hstart := startMeasurement_device_of_reset_raised (eq_of_beq hi) h
    rw [exec_measure_of_raised hstart]
    exact operate_of_raised hstart
  | writeBit | readBit | writeByte | readByte | searchReset | crcCheckAddr | cmdMatchRom | cmdSkipRom | cmdSearchRom
  | cmdConvertT | cmdReadScratchpad | cmdWriteScratchpad | cmdCopyScratchpad | cmdRecallE2 =>
    exact absurd hi Bool.false_ne_true

/-- Delivering an error does not look at the SearchState. -/
theorem deliverError_drawSearch (e : Err) (s : State) :
    deliverError e (drawSearch s) = drawSearch (deliverError e s) := by
  rw [deliverError, deliverError, drawSearch_pin]
  split <;> rfl

/-- A SEARCH whose reset slot raises an error is RESET, and the SearchState drawn. -/
theorem exec_search_of_reset_raised {s t u : State} {e : Err} (hflag : s.search.lastDeviceFlag = false)
    (h : busReset (accept s) = .raised e u) (he : e.drawsSearch = true) (hreset : exec .reset s = .next t) :
    exec .search s = .next (drawSearch t) := by
  have hrun : exec .reset s = .next (deliverError e u) := operate_of_raised h
  obtain rfl : deliverError e u = t := Host.Outcome.next.inj (hrun.symm.trans hreset)
  rw [← deliverError_drawSearch]
  exact operate_of_raised (search_of_reset_raised (s := accept s) hflag h he)

/-- What RESET reports, every operation that starts with a reset slot does, with the same pin. -/
theorem reports_as_reset {i : Instr} {s t u : State} {e : Err} {drive : Drive} {events : List Event}
    {slots : List Slot} (hi : startsWithReset s.search i = true) (h : busReset (accept s) = .raised e u)
    (he : e.drawsSearch = true) (hreset : Fails .reset s t e drive events slots) :
    ∃ t, exec i s = .next t ∧ Delivered (.ofErr s.params e) s t ∧ t.pin = ⟨drive, false, events, slots⟩ ∧
      t.host = s.host ∧ t.params = s.params ∧ (i ≠ .search → t.search = s.search ∧ t.draws = s.draws) := by
  obtain ⟨hrun, hport, hpin, hcursor, hdraws, hhost, hparams⟩ := hreset
  by_cases hsearch : i = .search
  · subst hsearch
    have hflag : s.search.lastDeviceFlag = false := by simpa [startsWithReset] using hi
    exact ⟨_, exec_search_of_reset_raised hflag h he hrun, hport, hpin, hhost, hparams, fun hne => absurd rfl hne⟩
  · exact ⟨t, (exec_eq_reset_of_reset_raised hi hsearch h).trans hrun, hport, hpin, hhost, hparams,
      fun _ => ⟨hcursor, hdraws⟩⟩

end Sys2Proof.Machine

namespace Sys2Proof

open Machine

/-- Settles O25: both outcomes are those of RESET (`resetSlot`), which every operation that starts with a reset slot
reports as RESET does (`reports_as_reset`). -/
theorem transactionNeedsLineAndPresence : Obligations.TransactionNeedsLineAndPresence := by
  intro i s hi hcrit
  refine ⟨fun hlow hu => ?_, fun p hidle habsent hu => ?_⟩
  · obtain ⟨-, hstuck, -⟩ := resetSlot s 0 hcrit
    obtain ⟨t, hreset⟩ := hstuck hlow hu
    exact reports_as_reset hi (busReset_low (s := accept s) hlow hu) rfl hreset
  · obtain ⟨hslot, -⟩ := resetSlot s p hcrit
    obtain ⟨-, hnoDevice, -⟩ := hslot hidle
    obtain ⟨t, hreset⟩ := hnoDevice hu habsent
    have hop := busReset_idle (s := accept s) hidle hu
    rw [accept_env, habsent, presentFlag_high, if_neg Bool.false_ne_true] at hop
    exact reports_as_reset hi hop rfl hreset

end Sys2Proof
end

section
/-! Illegal requests (`30_encoding.md` R73, R76, `60_exceptions.md` R186): each row of the opcode table is one operation
code in one form, so the decoder rejects a word that no row admits. -/

namespace Sys2Proof

/-! ## A form as a mask and a pattern (R71) -/

/-- The bits that a form fixes: the operation code, `tgt`, and every bit it does not use. -/
def Form.fixedBits (f : Form) : Fields where
  op        := BitVec.allOnes 8
  tgt       := BitVec.allOnes 1
  reserved1 := BitVec.allOnes 7
  d0        := ~~~f.d0Bits
  d1        := if f.usesD12 then 0 else BitVec.allOnes 8
  d2        := if f.usesD12 then 0 else BitVec.allOnes 8
  reserved2 := BitVec.allOnes 24
  addr      := if f.usesAddr then 0 else BitVec.allOnes 64

/-- The values of those bits, for an operation code. -/
def Form.fixedValues (f : Form) (op : Byte) : Fields where
  op        := op
  tgt       := f.tgt
  reserved1 := 0
  d0        := 0
  d1        := 0
  d2        := 0
  reserved2 := 0
  addr      := 0

/-- Words meet field by field. -/
theorem ofWord_and (v w : RequestWord) : Fields.ofWord (v &&& w) = {
    op        := (Fields.ofWord v).op &&& (Fields.ofWord w).op
    tgt       := (Fields.ofWord v).tgt &&& (Fields.ofWord w).tgt
    reserved1 := (Fields.ofWord v).reserved1 &&& (Fields.ofWord w).reserved1
    d0        := (Fields.ofWord v).d0 &&& (Fields.ofWord w).d0
    d1        := (Fields.ofWord v).d1 &&& (Fields.ofWord w).d1
    d2        := (Fields.ofWord v).d2 &&& (Fields.ofWord w).d2
    reserved2 := (Fields.ofWord v).reserved2 &&& (Fields.ofWord w).reserved2
    addr      := (Fields.ofWord v).addr &&& (Fields.ofWord w).addr } := by
  simp only [Fields.ofWord, BitVec.extractLsb'_and]

/-- An unused field is fixed at 0, a used one is free. -/
theorem and_unused_eq_zero {n : Nat} (used : Bool) (v : BitVec n) :
    v &&& (if used then 0 else BitVec.allOnes n) = 0 ↔ used = true ∨ v = 0 := by
  cases used <;> simp

/-- A word agrees with a form on the bits it fixes exactly when the decoder's test of the form admits its fields. -/
theorem and_fixedBits_eq_iff (f : Form) (op : Byte) (w : RequestWord) :
    w &&& f.fixedBits.toWord = (f.fixedValues op).toWord ↔
      (Fields.ofWord w).op = op ∧ f.admits (Fields.ofWord w) = true := by
  have hfields : w &&& f.fixedBits.toWord = (f.fixedValues op).toWord ↔
      Fields.ofWord (w &&& f.fixedBits.toWord) = f.fixedValues op :=
    ⟨fun h => by rw [h, ofWord_toWord], fun h => by rw [← h, toWord_ofWord]⟩
  rw [hfields, ofWord_and, ofWord_toWord]
  generalize Fields.ofWord w = x
  simp only [Form.fixedBits, Form.fixedValues, Form.admits, Fields.mk.injEq, BitVec.and_allOnes, and_unused_eq_zero,
    Bool.and_eq_true, Bool.or_eq_true, beq_iff_eq]
  tauto

/-! ## The rows (R72) -/

/-- The operation codes, each with the forms it has. -/
def operationForms : List (Byte × Form) :=
  [(0x01, .n), (0x02, .b), (0x03, .n), (0x04, .y), (0x05, .n), (0x10, .cs), (0x10, .cm), (0x11, .n), (0x12, .n),
    (0x20, .a), (0x31, .k), (0x32, .kw), (0x33, .k), (0x34, .kr), (0x35, .ts), (0x35, .tm), (0x36, .kr), (0x37, .kr)]

/-- Each is a row of the opcode table. -/
theorem exists_row_of_mem_operationForms :
    ∀ c ∈ operationForms, ∃ r ∈ requestRows,
      r.mask = c.2.fixedBits.toWord ∧ r.pattern = (c.2.fixedValues c.1).toWord := by
  decide +kernel

/-- A word whose fields the decoder's test of a form of its operation code admits is of some row. -/
theorem exists_row_of_admits {w : RequestWord} {f : Form} (hf : ((Fields.ofWord w).op, f) ∈ operationForms)
    (h : f.admits (Fields.ofWord w) = true) : ∃ r ∈ requestRows, r.admits w = true := by
  obtain ⟨r, hr, hmask, hpattern⟩ := exists_row_of_mem_operationForms _ hf
  refine ⟨r, hr, beq_iff_eq.mpr ?_⟩
  rw [hmask, hpattern]
  exact (and_fixedBits_eq_iff f _ w).mpr ⟨rfl, h⟩

/-! ## The decoder rejects what no form admits (R73, R76) -/

/-- A test decides between two rejections. -/
theorem error_of_ite {P : Prop} [Decidable P] {x y : Except DecodeError Instr} (hx : P → ∃ e, x = .error e)
    (hy : ∃ e, y = .error e) : ∃ e, (if P then x else y) = .error e := by
  split
  · exact hx ‹P›
  · exact hy

/-- Fields that no form of their operation code admits decode to no operation. -/
theorem decode_eq_error_of_no_form {x : Fields} (hno : ∀ f, (x.op, f) ∈ operationForms → f.admits x = false) :
    ∃ e, x.decode = .error e := by
  have hone {op : Byte} {f : Form} {i : Instr} (hop : x.op = op) (hf : (op, f) ∈ operationForms) :
      ∃ e, x.whenForm f i = .error e := by
    simp [Fields.whenForm, hno f (hop ▸ hf)]
  have htwo {op : Byte} {f g : Form} {i j : Instr} (hop : x.op = op) (hf : (op, f) ∈ operationForms)
      (hg : (op, g) ∈ operationForms) : ∃ e, x.whenForms f i g j = .error e := by
    simpa [Fields.whenForms, hno f (hop ▸ hf)] using hone hop hg
  unfold Fields.decode
  exact
    error_of_ite (hone · (by decide)) <|
    error_of_ite (hone · (by decide)) <|
    error_of_ite (hone · (by decide)) <|
    error_of_ite (hone · (by decide)) <|
    error_of_ite (hone · (by decide)) <|
    error_of_ite (htwo · (by decide) (by decide)) <|
    error_of_ite (hone · (by decide)) <|
    error_of_ite (hone · (by decide)) <|
    error_of_ite (hone · (by decide)) <|
    error_of_ite (hone · (by decide)) <|
    error_of_ite (hone · (by decide)) <|
    error_of_ite (hone · (by decide)) <|
    error_of_ite (hone · (by decide)) <|
    error_of_ite (htwo · (by decide) (by decide)) <|
    error_of_ite (hone · (by decide)) <|
    error_of_ite (hone · (by decide)) <|
    ⟨_, rfl⟩

/-- A request word of no row of the opcode table is rejected. -/
theorem decodeRequest_eq_error_of_no_row {w : RequestWord} (hno : ∀ r ∈ requestRows, r.admits w = false) :
    ∃ e, decodeRequest w = .error e := by
  refine decode_eq_error_of_no_form fun f hf => Bool.eq_false_iff.mpr fun hadmits => ?_
  obtain ⟨r, hr, hrow⟩ := exists_row_of_admits hf hadmits
  exact absurd hrow (by simp [hno r hr])

end Sys2Proof

namespace Sys2Proof.Machine

/-- The step of an idle engine on a code that decodes to no operation (`60_exceptions.md` R186). -/
theorem step_undecodable {s : State} {c : Code} {rest : List HostInput} {e : DecodeError} (hrst : s.host.rst = false)
    (hidle : s.port.busy = false) (hinputs : s.host.inputs = .code c :: rest) (hdecode : decode c = .error e) :
    step s = .next (illegal (setInputs rest s)) := by
  have hfetch : fetch s = .undecodable e rest := by simp only [fetch, hinputs, hdecode]
  simp [step, hrst, hidle, hfetch]

/-- The response word of an illegal request (`30_encoding.md` R75, `60_exceptions.md` R180). -/
theorem toWord_illegal : Response.illegal.toWord = 0xFF := by decide

end Sys2Proof.Machine

namespace Sys2Proof

open Machine

/-- Settles O6: a word of no row is rejected (`decodeRequest_eq_error_of_no_row`), and the step on a rejected code is
only its response (`step_undecodable`). -/
theorem illegalRequestChangesNothing : Obligations.IllegalRequestChangesNothing := by
  intro s w rest hrst hidle hinputs hno
  obtain ⟨e, hdecode⟩ := decodeRequest_eq_error_of_no_row hno
  exact ⟨_, step_undecodable hrst hidle hinputs hdecode, rfl, toWord_illegal, rfl, rfl, rfl, rfl, rfl, rfl⟩

end Sys2Proof
end

section
/-! The state after reset (`10_state.md` R37, `70_reset_and_hazards.md` R211): each part of the engine with the value it
has there, and the timing parameters, which are the document's (`00_scope.md` R9). -/

namespace Sys2Proof.Machine

@[simp] theorem reset_search : State.reset.search = .zero := rfl

/-- The engine does not hold the line, and nothing has happened on it. -/
@[simp] theorem reset_pin : State.reset.pin = ⟨.released, false, [], []⟩ := rfl

/-- The engine is ready, with no wait pending and no response to show. -/
@[simp] theorem reset_port : State.reset.port = ⟨false, false, .zero, false, 0, none⟩ := rfl

@[simp] theorem reset_timing : State.reset.params.timing = Timing.documented := rfl

end Sys2Proof.Machine

namespace Sys2Proof

open Machine

/-- Settles O12: the registers part by part (`reset_search`, `reset_pin`, `reset_port`), and the twelve figures as those
of the document's table (`reset_timing`, R9). -/
theorem resetValues : Obligations.ResetValues := by
  refine ⟨⟨reset_search, ?drive, ?busy, ?crit, ?waitReq, ?respValid⟩, ?timing⟩
  case drive | crit => rw [reset_pin]
  case busy | waitReq | respValid => rw [reset_port]
  case timing => exact reset_timing

end Sys2Proof
end

section
/-! The encoding (`30_encoding.md` R70 to R73, R80, R81): what the decoder accepts, by the forms of each operation code
and by the command of a wire piece; and each word as the one packed from the operation it decodes to. -/

namespace Sys2Proof

/-! ## Requests: the tests of the decoder -/

theorem whenForm_eq_ok_iff {x : Fields} {f : Form} {i j : Instr} :
    x.whenForm f i = .ok j ↔ f.admits x = true ∧ i = j := by
  unfold Fields.whenForm
  split_ifs with h <;> simp [h]

theorem whenForms_eq_ok_iff {x : Fields} {f g : Form} {i i' j : Instr} :
    x.whenForms f i g i' = .ok j ↔
      f.admits x = true ∧ i = j ∨ f.admits x = false ∧ g.admits x = true ∧ i' = j := by
  unfold Fields.whenForms
  split_ifs with h <;> simp [h, whenForm_eq_ok_iff]

/-- Fields that a form of their operation code admits decode to an operation. -/
theorem decode_ok_of_admits {x : Fields} {f : Form} (hf : (x.op, f) ∈ operationForms) (h : f.admits x = true) :
    ∃ i, x.decode = .ok i := by
  have hone (i : Instr) : x.whenForm f i = .ok i := whenForm_eq_ok_iff.mpr ⟨h, rfl⟩
  have htwo (g : Form) (i j : Instr) : ∃ k, x.whenForms g j f i = .ok k := by
    cases hg : g.admits x with
    | true => exact ⟨j, whenForms_eq_ok_iff.mpr (.inl ⟨hg, rfl⟩)⟩
    | false => exact ⟨i, whenForms_eq_ok_iff.mpr (.inr ⟨hg, h, rfl⟩)⟩
  have hfirst (g : Form) (i j : Instr) : x.whenForms f i g j = .ok i := whenForms_eq_ok_iff.mpr (.inl ⟨h, rfl⟩)
  simp only [operationForms, List.mem_cons, Prod.mk.injEq, List.not_mem_nil, or_false] at hf
  unfold Fields.decode
  rcases hf with hf | hf | hf | hf | hf | hf | hf | hf | hf | hf | hf | hf | hf | hf | hf | hf | hf | hf <;>
    obtain ⟨hop, rfl⟩ := hf <;> simp [hop, hone, htwo, hfirst]

/-- Every row of the opcode table is an operation code with one of its forms. -/
theorem exists_mem_operationForms_of_row :
    ∀ r ∈ requestRows, ∃ c ∈ operationForms,
      r.mask = c.2.fixedBits.toWord ∧ r.pattern = (c.2.fixedValues c.1).toWord := by
  decide +kernel

/-- The decoder accepts exactly the request words of some row (R73). -/
theorem decodeRequest_ok_iff (w : RequestWord) :
    (∃ i, decodeRequest w = .ok i) ↔ ∃ r ∈ requestRows, r.admits w = true := by
  constructor
  · rintro ⟨i, hi⟩
    by_contra hno
    push Not at hno
    obtain ⟨e, he⟩ := decodeRequest_eq_error_of_no_row fun r hr => Bool.eq_false_iff.mpr (hno r hr)
    exact nomatch hi.symm.trans he
  · rintro ⟨r, hr, hadmits⟩
    obtain ⟨⟨op, f⟩, hc, hmask, hpattern⟩ := exists_mem_operationForms_of_row r hr
    have hword : w &&& f.fixedBits.toWord = (f.fixedValues op).toWord := by
      rw [← hmask, ← hpattern]
      exact eq_of_beq hadmits
    obtain ⟨rfl, hf⟩ := (and_fixedBits_eq_iff f op w).mp hword
    exact decode_ok_of_admits hc hf

/-! ## Requests: the word of the decoded operation -/

/-- A one-bit operand is the byte that holds it. -/
theorem bitByte_getLsbD (v : Byte) : bitByte (v.getLsbD 0) = v &&& 0x01 := by revert v; decide

/-- A resolution operand is the byte that holds its code. -/
theorem setWidth_code_ofCode (v : Byte) : (Resolution.ofCode (v.setWidth 2)).code.setWidth 8 = v &&& 0x03 := by
  rw [code_ofCode]
  revert v
  decide

/-- A value with no bits outside a mask is its part inside. -/
theorem and_eq_self_of_and_not_eq_zero {n : Nat} {v m : BitVec n} (h : v &&& ~~~m = 0) : v &&& m = v := by
  ext i hi
  have hbit := congrArg (·[i]) h
  simp only [BitVec.getElem_and, BitVec.getElem_not, BitVec.ofNat_eq_ofNat, BitVec.getElem_zero] at hbit ⊢
  cases hv : v[i] <;> simp_all

/-- Fields that a form admits are packed from the operation code, the form, and the fields the form uses. -/
theorem requestWord_eq_toWord {x : Fields} {f : Form} {op d0 d1 d2 : Byte} {a : Address} (h : f.admits x = true)
    (hop : x.op = op) (h0 : d0 = x.d0 &&& f.d0Bits) (h1 : d1 = if f.usesD12 then x.d1 else 0)
    (h2 : d2 = if f.usesD12 then x.d2 else 0) (ha : a = if f.usesAddr then x.addr else 0) :
    Code.request (requestWord op f d0 d1 d2 a) = .request x.toWord := by
  subst hop h0 h1 h2 ha
  obtain ⟨op, tgt, r1, x0, x1, x2, r2, xa⟩ := x
  simp only [Form.admits, Bool.and_eq_true, Bool.or_eq_true, beq_iff_eq] at h
  obtain ⟨⟨⟨⟨⟨rfl, rfl⟩, rfl⟩, hbits⟩, hd12⟩, haddr⟩ := h
  rw [requestWord, and_eq_self_of_and_not_eq_zero hbits]
  congr 3
  · rcases hd12 with hd | ⟨hd, -⟩ <;> simp [hd]
  · rcases hd12 with hd | ⟨-, hd⟩ <;> simp [hd]
  · rcases haddr with ha | ha <;> simp [ha]

/-- A test of the decoder: what holds of an operation from either side of it holds of the one it yields. -/
theorem of_ite_eq_ok {P Q : Prop} [Decidable P] {a b : Except DecodeError Instr} {i : Instr}
    (h : (if P then a else b) = .ok i) (ha : P → a = .ok i → Q) (hb : b = .ok i → Q) : Q := by
  split at h
  · exact ha ‹P› h
  · exact hb h

/-- Fields decode to the operation whose word they make. -/
theorem encode_of_decode {x : Fields} {i : Instr} (h : x.decode = .ok i) : encode i = .request x.toWord := by
  have hnone (v : Byte) : 0 = v &&& 0x00 := BitVec.and_zero.symm
  have hall (v : Byte) : v = v &&& 0xFF := (BitVec.and_allOnes (x := v)).symm
  have hone {f : Form} {j : Instr} (he : f.admits x = true → encode j = .request x.toWord)
      (hx : x.whenForm f j = .ok i) : encode i = .request x.toWord := by
    obtain ⟨hf, rfl⟩ := whenForm_eq_ok_iff.mp hx
    exact he hf
  have htwo {f g : Form} {j k : Instr} (hj : f.admits x = true → encode j = .request x.toWord)
      (hk : g.admits x = true → encode k = .request x.toWord) (hx : x.whenForms f j g k = .ok i) :
      encode i = .request x.toWord := by
    obtain ⟨hf, rfl⟩ | ⟨-, hg, rfl⟩ := whenForms_eq_ok_iff.mp hx
    · exact hj hf
    · exact hk hg
  have hword {f : Form} {d0 d1 d2 : Byte} {a : Address} {op : Byte} (h0 : d0 = x.d0 &&& f.d0Bits)
      (h1 : d1 = if f.usesD12 then x.d1 else 0) (h2 : d2 = if f.usesD12 then x.d2 else 0)
      (ha : a = if f.usesAddr then x.addr else 0) (hop : x.op = op) (hf : f.admits x = true) :=
    requestWord_eq_toWord hf hop h0 h1 h2 ha
  refine of_ite_eq_ok h (fun hop => hone (hword (hnone _) rfl rfl rfl hop)) fun h => ?_
  refine of_ite_eq_ok h (fun hop => hone (hword (bitByte_getLsbD _) rfl rfl rfl hop)) fun h => ?_
  refine of_ite_eq_ok h (fun hop => hone (hword (hnone _) rfl rfl rfl hop)) fun h => ?_
  refine of_ite_eq_ok h (fun hop => hone (hword (hall _) rfl rfl rfl hop)) fun h => ?_
  refine of_ite_eq_ok h (fun hop => hone (hword (hnone _) rfl rfl rfl hop)) fun h => ?_
  refine of_ite_eq_ok h (fun hop => htwo (hword (hall _) rfl rfl rfl hop) (hword (hall _) rfl rfl rfl hop)) fun h => ?_
  refine of_ite_eq_ok h (fun hop => hone (hword (hnone _) rfl rfl rfl hop)) fun h => ?_
  refine of_ite_eq_ok h (fun hop => hone (hword (hnone _) rfl rfl rfl hop)) fun h => ?_
  refine of_ite_eq_ok h (fun hop => hone (hword (hnone _) rfl rfl rfl hop)) fun h => ?_
  refine of_ite_eq_ok h (fun hop => hone (hword (hnone _) rfl rfl rfl hop)) fun h => ?_
  refine of_ite_eq_ok h (fun hop => hone (hword (hall _) rfl rfl rfl hop)) fun h => ?_
  refine of_ite_eq_ok h (fun hop => hone (hword (hnone _) rfl rfl rfl hop)) fun h => ?_
  refine of_ite_eq_ok h (fun hop => hone (hword (setWidth_code_ofCode _) rfl rfl rfl hop)) fun h => ?_
  refine of_ite_eq_ok h (fun hop => htwo (hword (hnone _) rfl rfl rfl hop) (hword (hnone _) rfl rfl rfl hop))
    fun h => ?_
  refine of_ite_eq_ok h (fun hop => hone (hword (setWidth_code_ofCode _) rfl rfl rfl hop)) fun h => ?_
  refine of_ite_eq_ok h (fun hop => hone (hword (setWidth_code_ofCode _) rfl rfl rfl hop)) fun h => ?_
  exact nomatch h

/-! ## Wire pieces (R80, R81) -/

theorem wireFollowedBy_eq_ok_iff {w : WireWord} {n : Nat} {i j : Instr} :
    wireFollowedBy w n i = .ok j ↔ w >>> (8 * (n + 1)) = 0 ∧ i = j := by
  unfold wireFollowedBy
  split_ifs with h
  · rw [Except.ok.injEq, and_iff_right h]
  · exact ⟨nofun, fun hw => absurd hw.1 h⟩

/-- The command of a piece is its lowest byte. -/
theorem setWidth_eq_wireByte (w : WireWord) : w.setWidth 8 = wireByte w 0 := by
  ext i hi
  simp [wireByte]

/-- A value with no bit from `n` on has bit 0 there. -/
theorem getLsbD_eq_false_of_shift {m n i : Nat} {w : BitVec m} (h : w >>> n = 0) (hi : n ≤ i) :
    w.getLsbD i = false := by
  have hbit := congrArg (·.getLsbD (i - n)) h
  simpa [Nat.add_sub_cancel' hi] using hbit

/-- A command followed by nothing is its byte. -/
theorem wire_eq_command {w : WireWord} {c : Byte} (hc : wireByte w 0 = c) (h : w >>> (8 * (0 + 1)) = 0) :
    c.setWidth 72 = w := by
  subst hc
  refine BitVec.eq_of_getLsbD_eq fun i hi => ?_
  simp only [wireByte, BitVec.getLsbD_setWidth, BitVec.getLsbD_extractLsb']
  by_cases hlow : i < 8
  · simp [hlow, hi]
  · simp [hlow, getLsbD_eq_false_of_shift h (Nat.le_of_not_lt hlow)]

/-- A command followed by three bytes is those four bytes. -/
theorem wire_eq_threeBytes {w : WireWord} {c : Byte} (hc : wireByte w 0 = c) (h : w >>> (8 * (3 + 1)) = 0) :
    (wireByte w 3 ++ (wireByte w 2 ++ (wireByte w 1 ++ c)) : BitVec 32).setWidth 72 = w := by
  subst hc
  refine BitVec.eq_of_getLsbD_eq fun i hi => ?_
  simp only [wireByte, BitVec.getLsbD_setWidth, BitVec.getLsbD_append, BitVec.getLsbD_extractLsb']
  by_cases hlow : i < 32
  · grind
  · have hbit : w.getLsbD i = false := getLsbD_eq_false_of_shift h (by omega)
    grind

/-- A command followed by eight bytes is those nine bytes. -/
theorem wire_eq_eightBytes {w : WireWord} {c : Byte} (hc : wireByte w 0 = c) :
    (w.extractLsb' 8 64 ++ c : WireWord) = w := by
  subst hc
  ext i hi
  simp only [wireByte, ← BitVec.getLsbD_eq_getElem, BitVec.getLsbD_append, BitVec.getLsbD_extractLsb']
  grind

/-- A piece that decodes is of some row, and is the word of the operation it decodes to. -/
theorem wellFormed_and_encode_of_decodeWire {w : WireWord} {i : Instr} (h : decodeWire w = .ok i) :
    (∃ r ∈ wireRows, r.admits w = true) ∧ encode i = .wire w := by
  have hpiece {r : WireRow} {n : Nat} {c : Byte} {j : Instr} (hr : r ∈ wireRows) (hrow : r.command = c ∧ r.operands = n)
      (hj : wireByte w 0 = c → w >>> (8 * (n + 1)) = 0 → encode j = .wire w) (hc : wireByte w 0 = c)
      (hx : wireFollowedBy w n j = .ok i) : (∃ r ∈ wireRows, r.admits w = true) ∧ encode i = .wire w := by
    obtain ⟨hzero, rfl⟩ := wireFollowedBy_eq_ok_iff.mp hx
    obtain ⟨rfl, rfl⟩ := hrow
    refine ⟨⟨r, hr, ?_⟩, hj hc hzero⟩
    simp only [WireRow.admits, setWidth_eq_wireByte, hc, hzero, beq_self_eq_true, Bool.and_self]
  have hbyte {c : Byte} (hc : wireByte w 0 = c) (hzero : w >>> (8 * (0 + 1)) = 0) :
      Code.wire (c.setWidth 72) = .wire w := congrArg Code.wire (wire_eq_command hc hzero)
  unfold decodeWire at h
  refine of_ite_eq_ok h (hpiece (r := ⟨"CMD_MATCH_ROM", 0x55, 8⟩) (by decide) ⟨rfl, rfl⟩
    fun hc _ => congrArg Code.wire (wire_eq_eightBytes hc)) fun h => ?_
  refine of_ite_eq_ok h (hpiece (r := ⟨"CMD_SKIP_ROM", 0xCC, 0⟩) (by decide) ⟨rfl, rfl⟩ hbyte) fun h => ?_
  refine of_ite_eq_ok h (hpiece (r := ⟨"CMD_SEARCH_ROM", 0xF0, 0⟩) (by decide) ⟨rfl, rfl⟩ hbyte) fun h => ?_
  refine of_ite_eq_ok h (hpiece (r := ⟨"CMD_CONVERT_T", 0x44, 0⟩) (by decide) ⟨rfl, rfl⟩ hbyte) fun h => ?_
  refine of_ite_eq_ok h (hpiece (r := ⟨"CMD_READ_SCRATCHPAD", 0xBE, 0⟩) (by decide) ⟨rfl, rfl⟩ hbyte) fun h => ?_
  refine of_ite_eq_ok h (hpiece (r := ⟨"CMD_WRITE_SCRATCHPAD", 0x4E, 3⟩) (by decide) ⟨rfl, rfl⟩
    fun hc hzero => congrArg Code.wire (wire_eq_threeBytes hc hzero)) fun h => ?_
  refine of_ite_eq_ok h (hpiece (r := ⟨"CMD_COPY_SCRATCHPAD", 0x48, 0⟩) (by decide) ⟨rfl, rfl⟩ hbyte) fun h => ?_
  refine of_ite_eq_ok h (hpiece (r := ⟨"CMD_RECALL_E2", 0xB8, 0⟩) (by decide) ⟨rfl, rfl⟩ hbyte) fun h => ?_
  exact nomatch h

/-- A piece of some row decodes. -/
theorem decodeWire_ok_of_row {w : WireWord} {r : WireRow} (hr : r ∈ wireRows) (h : r.admits w = true) :
    ∃ i, decodeWire w = .ok i := by
  have hok {n : Nat} (i : Instr) (hzero : w >>> (8 * (n + 1)) = 0) : ∃ j, wireFollowedBy w n i = .ok j :=
    ⟨i, wireFollowedBy_eq_ok_iff.mpr ⟨hzero, rfl⟩⟩
  simp only [WireRow.admits, setWidth_eq_wireByte, Bool.and_eq_true, beq_iff_eq] at h
  obtain ⟨hc, hzero⟩ := h
  unfold decodeWire
  simp only [wireRows, List.mem_cons, List.not_mem_nil, or_false] at hr
  rcases hr with rfl | rfl | rfl | rfl | rfl | rfl | rfl | rfl <;> rw [hc] <;> exact hok _ hzero

/-! ## The operations -/

/-- A code decodes exactly when it is of some row of the opcode table. -/
theorem decode_ok_iff_wellFormed (c : Code) : (∃ i, decode c = .ok i) ↔ c.wellFormed = true := by
  cases c with
  | request w => simpa [Code.wellFormed, decode] using decodeRequest_ok_iff w
  | wire w =>
    simp only [Code.wellFormed, decode, List.any_eq_true]
    constructor
    · rintro ⟨i, hi⟩
      exact (wellFormed_and_encode_of_decodeWire hi).1
    · rintro ⟨r, hr, hadmits⟩
      exact decodeWire_ok_of_row hr hadmits

/-- A request decodes to the operation of the form its operation code has: the fields that form uses are all it
needs, if the others are 0. -/
theorem decode_requestWord {op d0 d1 d2 : Byte} {f : Form} {a : Address} {i : Instr}
    (hrow : Fields.decode ⟨op, f.tgt, 0, d0, d1, d2, 0, a⟩ = Fields.whenForm ⟨op, f.tgt, 0, d0, d1, d2, 0, a⟩ f i)
    (h0 : d0 &&& ~~~f.d0Bits = 0) (h12 : f.usesD12 = true ∨ d1 = 0 ∧ d2 = 0) (ha : f.usesAddr = true ∨ a = 0) :
    decode (.request (requestWord op f d0 d1 d2 a)) = .ok i := by
  rw [decode, decodeRequest, ofWord_requestWord, hrow]
  refine whenForm_eq_ok_iff.mpr ⟨?_, rfl⟩
  simp only [Form.admits, h0, beq_self_eq_true, Bool.true_and, Bool.and_eq_true, Bool.or_eq_true, beq_iff_eq]
  exact ⟨h12, ha⟩

/-- The command and the operands of a piece written with the match command. -/
theorem wire_of_eightBytes (a : Address) (c : Byte) :
    wireByte (a ++ c) 0 = c ∧ BitVec.extractLsb' 8 64 (a ++ c) = a ∧ (a ++ c) >>> (8 * (8 + 1)) = (0 : WireWord) := by
  have hbit (i : Nat) : (show WireWord from a ++ c).getLsbD i = if i < 8 then c.getLsbD i else a.getLsbD (i - 8) := by
    refine (BitVec.getLsbD_append (x := a) (y := c) (i := i)).trans ?_
    by_cases hi : i < 8 <;> simp [hi]
  refine ⟨?_, ?_, BitVec.ushiftRight_eq_zero (by decide)⟩ <;> refine BitVec.eq_of_getLsbD_eq fun i hi => ?_ <;>
    simp only [wireByte, BitVec.getLsbD_extractLsb', hbit] <;> simp [hi]

/-- The command and the operands of a piece written with three bytes. -/
theorem wire_of_threeBytes (x y z c : Byte) :
    wireByte ((z ++ (y ++ (x ++ c)) : BitVec 32).setWidth 72) 0 = c ∧
      wireByte ((z ++ (y ++ (x ++ c)) : BitVec 32).setWidth 72) 1 = x ∧
      wireByte ((z ++ (y ++ (x ++ c)) : BitVec 32).setWidth 72) 2 = y ∧
      wireByte ((z ++ (y ++ (x ++ c)) : BitVec 32).setWidth 72) 3 = z ∧
      (z ++ (y ++ (x ++ c)) : BitVec 32).setWidth 72 >>> (8 * (3 + 1)) = (0 : WireWord) := by
  refine ⟨?_, ?_, ?_, ?_, ?_⟩ <;> refine BitVec.eq_of_getLsbD_eq fun i hi => ?_ <;>
    simp only [wireByte, BitVec.getLsbD_extractLsb', BitVec.getLsbD_setWidth, BitVec.getLsbD_append,
      BitVec.getLsbD_ushiftRight] <;> grind

/-- Every operation is decoded from its word, operand by operand (R71, R72, R80, R81). -/
theorem decode_encode (i : Instr) : decode (encode i) = .ok i := by
  have hnone : (0 : Byte) &&& ~~~0 = 0 := by decide
  have hall (v : Byte) : v &&& ~~~0xFF = 0 := by revert v; decide
  have hzero : (0 : Byte) = 0 ∧ (0 : Byte) = 0 := ⟨rfl, rfl⟩
  cases i with
  | reset | readBit | readByte | search | searchReset | startMeasurementSkip =>
    exact decode_requestWord rfl hnone (.inr hzero) (.inr rfl)
  | crcCheckAddr a | readScratchpad a | getResolution a | startMeasurementMatch a =>
    exact decode_requestWord rfl hnone (.inr hzero) (.inl rfl)
  | writeBit b => cases b <;> exact decode_requestWord rfl (by decide) (.inr hzero) (.inr rfl)
  | writeByte v | sendCommandSkip v => exact decode_requestWord rfl (hall v) (.inr hzero) (.inr rfl)
  | sendCommandMatch a v => exact decode_requestWord rfl (hall v) (.inr hzero) (.inl rfl)
  | writeScratchpad a th tl cfg => exact decode_requestWord rfl (hall th) (.inl rfl) (.inl rfl)
  | setResolution a r | readTemp a r | measure a r =>
    cases r <;> exact decode_requestWord rfl (by decide) (.inr hzero) (.inl rfl)
  | cmdSkipRom | cmdSearchRom | cmdConvertT | cmdReadScratchpad | cmdCopyScratchpad | cmdRecallE2 => rfl
  | cmdMatchRom a =>
    obtain ⟨hc, ha, hend⟩ := wire_of_eightBytes a Config.cmdMatchRom
    rw [encode, decode, decodeWire, hc, if_pos rfl, ha]
    exact wireFollowedBy_eq_ok_iff.mpr ⟨hend, rfl⟩
  | cmdWriteScratchpad th tl cfg =>
    obtain ⟨hc, hth, htl, hcfg, hend⟩ := wire_of_threeBytes th tl cfg Config.cmdWriteScratchpad
    rw [encode, decode, decodeWire, hc, hth, htl, hcfg]
    exact wireFollowedBy_eq_ok_iff.mpr ⟨hend, rfl⟩

/-! ## Rows do not meet (R71, R72, R80, R81) -/

/-- A word of two request rows agrees with the pattern of each on the mask of the other. -/
theorem pattern_and_mask_of_admits {r r' : RequestRow} {w : RequestWord} (h : r.admits w = true)
    (h' : r'.admits w = true) : r.pattern &&& r'.mask = r'.pattern &&& r.mask := by
  rw [← eq_of_beq h, ← eq_of_beq h', BitVec.and_assoc, BitVec.and_assoc, BitVec.and_comm r.mask]

/-- Different request rows differ on a bit that both fix. -/
theorem requestRows_disjoint :
    ∀ r ∈ requestRows, ∀ r' ∈ requestRows, r.pattern &&& r'.mask = r'.pattern &&& r.mask → r = r' := by
  decide +kernel

/-- Different wire rows have different commands. -/
theorem wireRows_disjoint : ∀ r ∈ wireRows, ∀ r' ∈ wireRows, r.command = r'.command → r = r' := by decide +kernel

theorem command_of_admits {r : WireRow} {w : WireWord} (h : r.admits w = true) : r.command = w.setWidth 8 := by
  simp only [WireRow.admits, Bool.and_eq_true, beq_iff_eq] at h
  obtain ⟨hc, -⟩ := h
  exact hc.symm

/-! ## The obligations -/

/-- Settles O1: the round trip is `decode_encode`, and what decodes is well formed (`decode_ok_iff_wellFormed`). -/
theorem decodeEncodeRoundTrip : Obligations.DecodeEncodeRoundTrip := fun i =>
  ⟨(decode_ok_iff_wellFormed (encode i)).mp ⟨i, decode_encode i⟩, decode_encode i⟩

/-- Settles O2, for requests by their fields (`encode_of_decode`), for wire pieces by their bytes
(`wellFormed_and_encode_of_decodeWire`). -/
theorem decodedWordIsItsEncoding : Obligations.DecodedWordIsItsEncoding := by
  intro c i h
  cases c with
  | request w => rw [encode_of_decode h, toWord_ofWord]
  | wire w =>
    obtain ⟨-, hencode⟩ := wellFormed_and_encode_of_decodeWire h
    exact hencode

/-- Settles O3: `decode_ok_iff_wellFormed`. -/
theorem decoderAcceptsExactlyTheTable : Obligations.DecoderAcceptsExactlyTheTable := decode_ok_iff_wellFormed

/-- Settles O4: a word of two rows agrees with both patterns where both masks are set, and no two rows allow that. -/
theorem tableRowsAreDisjoint : Obligations.TableRowsAreDisjoint :=
  ⟨fun _ r r' hr hr' h h' => requestRows_disjoint r hr r' hr' (pattern_and_mask_of_admits h h'),
    fun _ r r' hr hr' h h' => wireRows_disjoint r hr r' hr' ((command_of_admits h).trans (command_of_admits h').symm)⟩

/-- Settles O5: each word is the encoding of the operation beside it, which `decode_encode` decodes. -/
theorem specWordsDecode : Obligations.SpecWordsDecode :=
  ⟨decode_encode (.writeBit true), decode_encode (.writeByte 0xCC),
    decode_encode (.sendCommandMatch 0x1E00000000000028 0xBE),
    decode_encode (.writeScratchpad 0x1E00000000000028 0x4B 0x46 0x5F),
    decode_encode (.setResolution 0x1E00000000000028 .bits11),
    decode_encode (.measure 0x2900000000000128 .bits12), decode_encode .cmdConvertT,
    decode_encode (.cmdWriteScratchpad 0x4B 0x46 0x5F)⟩

end Sys2Proof
end

section
/-! Whole operations by their parts: a property that the three slots have and that sequencing keeps, every operation
has. Each statement about all operations is then one rule (`OpRule`) and MEASURE, which waits in the middle. -/

namespace Sys2Proof.Machine

/-! ## Rules about sub-operations -/

/-- A property of sub-operations that holds of the three slots and of doing nothing, and is kept by sequencing and by
looking at the SearchState and the parameters. -/
structure OpRule (Q : (α : Type) → (State → Result α) → Prop) : Prop where
  pure     : ∀ {α : Type} (a : α), Q α fun s => .ok a s
  raise    : ∀ {α : Type} (e : Err), (∀ x, e ≠ .pin x) → Q α fun s => .raised e s
  bind     : ∀ {α β : Type} {op : State → Result α} {f : α → State → Result β}, Q α op → (∀ a, Q β (f a)) →
    Q β fun s => (op s).andThen f
  view     : ∀ {α : Type} {g : SearchState → Params → State → Result α}, (∀ c p, Q α (g c p)) →
    Q α fun s => g s.search s.params s
  busReset : Q Unit busReset
  writeBit : ∀ b, Q Unit (writeBit b)
  readBit  : Q Bool readBit

/-- The same of searches, which write the SearchState too. -/
structure SearchRule (Q : (α : Type) → (State → Result α) → Prop) : Prop extends OpRule Q where
  setSearch  : ∀ {α : Type} {op : State → Result α} (c : SearchState), Q α op → Q α fun s => op (setSearch c s)
  searchExit : ∀ {α : Type} {op : State → Result α}, Q α op → Q α fun s => searchExit (op s)

variable {Q : (α : Type) → (State → Result α) → Prop}

namespace OpRule

variable (h : OpRule Q)
include h

theorem writeBits (bs : List Bool) : Q Unit (writeBits bs) := by
  induction bs with
  | nil => exact h.pure ()
  | cons b bs ih => exact h.bind (h.writeBit b) fun _ => ih

theorem writeByte (v : Byte) : Q Unit (writeByte v) := h.writeBits _

theorem writeBytes (vs : List Byte) : Q Unit (writeBytes vs) := by
  induction vs with
  | nil => exact h.pure ()
  | cons v vs ih => exact h.bind (h.writeByte v) fun _ => ih

theorem readBits (n : Nat) : ∀ (k : Nat) (v : Byte), Q Byte (readBits n k v) := by
  induction n with
  | zero => exact fun _ v => h.pure v
  | succ n ih => exact fun k v => h.bind h.readBit fun b => ih (k + 1) (setBit v k b)

theorem readByte : Q Byte readByte := h.readBits _ _ _

theorem readBytes (n : Nat) : Q (List Byte) (readBytes n) := by
  induction n with
  | zero => exact h.pure []
  | succ n ih => exact h.bind h.readByte fun v => h.bind ih fun vs => h.pure (v :: vs)

theorem matchRom (a : Address) : Q Unit (matchRom a) := h.bind (h.writeByte _) fun _ => h.writeBytes _

theorem select : ∀ t : Target, Q Unit (select t)
  | .skip => h.writeByte _
  | .device a => h.matchRom a

theorem sendCommand (t : Target) (c : Byte) : Q Unit (sendCommand t c) :=
  h.bind h.busReset fun _ => h.bind (h.select t) fun _ => h.writeByte c

theorem checkCrc (bytes : List Byte) : Q Unit (checkCrc bytes) := by
  unfold Machine.checkCrc
  cases crcOk bytes
  · exact h.raise .crcMismatch nofun
  · exact h.pure ()

theorem checkFamily (a : Address) : Q Unit (checkFamily a) := by
  unfold Machine.checkFamily
  by_cases ha : byteAt a 0 = Config.familyCode
  · simpa only [if_pos ha] using h.pure ()
  · simpa only [if_neg ha] using h.raise .familyCodeMismatch nofun

theorem readScratchpad (a : Address) : Q (List Byte) (readScratchpad a) :=
  h.bind (h.checkFamily a) fun _ => h.bind (h.sendCommand _ _) fun _ => h.bind (h.readBytes 9) fun sp =>
    h.bind (h.checkCrc sp) fun _ => h.pure sp

theorem writeScratchpad (a : Address) (th tl cfg : Byte) : Q Unit (writeScratchpad a th tl cfg) :=
  h.bind (h.checkFamily a) fun _ => h.bind (h.sendCommand _ _) fun _ => h.writeBytes _

theorem getResolution (a : Address) : Q Resolution (getResolution a) := by
  refine h.bind (h.readScratchpad a) fun sp => ?_
  cases Resolution.ofCfg (sp.getD 4 0) with
  | some r => exact h.pure r
  | none => exact h.raise .unexpectedResponse nofun

theorem setResolution (a : Address) (r : Resolution) : Q Unit (setResolution a r) :=
  h.bind (h.readScratchpad a) fun _ => h.writeScratchpad _ _ _ _

theorem startMeasurement : ∀ t : Target, Q Unit (startMeasurement t)
  | .skip => h.bind (h.pure ()) fun _ => h.sendCommand _ _
  | .device a => h.bind (h.checkFamily a) fun _ => h.sendCommand _ _

theorem readTemp (a : Address) (r : Resolution) : Q Int (readTemp a r) :=
  h.bind (h.readScratchpad a) fun sp => h.view (g := fun _ p s => .ok (decodeTemp p sp r) s) fun _ _ => h.pure _

theorem readScratchpadPiece : Q (List Byte) readScratchpadPiece := h.bind (h.writeByte _) fun _ => h.readBytes 9

theorem writeScratchpadPiece (th tl cfg : Byte) : Q Unit (writeScratchpadPiece th tl cfg) :=
  h.bind (h.writeByte _) fun _ => h.writeBytes _

end OpRule

namespace SearchRule

variable (h : SearchRule Q)
include h

theorem searchReset : Q Unit fun s => .ok () (searchReset s) := h.setSearch .zero (h.pure ())

/-- One position of the walk, after its two probe bits: the end of the walk, or the direction written and the rest. -/
theorem searchWalk (n : Nat) : ∀ lastZero : Nat, Q (Option Nat) (searchWalk n lastZero) := by
  induction n with
  | zero => exact fun lastZero => h.pure (some lastZero)
  | succ n ih =>
    intro lastZero
    refine h.bind h.readBit fun idBit => h.bind h.readBit fun cmpBit => ?_
    refine h.view (g := fun c _ s => match decideBit c (64 - n) lastZero idBit cmpBit with
      | none => .ok none s
      | some (dir, c, lastZero) => (Machine.writeBit dir (Machine.setSearch (recordDir c (64 - n) dir) s)).andThen
          fun _ s => Machine.searchWalk n lastZero s) fun c _ => ?_
    rcases decideBit c (64 - n) lastZero idBit cmpBit with _ | ⟨dir, c', lastZero'⟩
    · exact h.pure none
    · exact h.bind (h.setSearch _ (h.writeBit dir)) fun _ => ih lastZero'

theorem searchEnd : ∀ walked : Option Nat, Q (Option Address) (searchEnd walked)
  | none => h.setSearch .zero (h.pure none)
  | some lastZero => by
    refine h.view (g := fun c p s =>
      if p.searchCrcCheck && !crcOk (addressBytes (endOfPass c lastZero).romNo)
      then .raised .crcMismatch (Machine.setSearch (endOfPass c lastZero) s)
      else .ok (some (endOfPass c lastZero).romNo) (Machine.setSearch (endOfPass c lastZero) s)) fun c p => ?_
    cases p.searchCrcCheck && !crcOk (addressBytes (endOfPass c lastZero).romNo)
    · exact h.setSearch _ (h.pure _)
    · exact h.setSearch _ (h.raise .crcMismatch nofun)

theorem searchPass : Q (Option Address) searchPass :=
  h.bind (h.writeByte _) fun _ => h.bind (h.searchWalk 64 0) h.searchEnd

theorem search : Q (Option Address) search := by
  refine h.view (g := fun c _ s => if c.lastDeviceFlag then .ok none (Machine.searchReset s)
    else Machine.searchExit ((Machine.busReset s).andThen fun _ s => Machine.searchPass s)) fun c _ => ?_
  cases c.lastDeviceFlag
  · exact h.searchExit (h.bind h.busReset fun _ => h.searchPass)
  · exact h.setSearch .zero (h.pure none)

end SearchRule

/-! ## Every operation but MEASURE -/

/-- The operations that write the SearchState. -/
def writesSearch : Instr → Bool
  | .search | .searchReset | .cmdSearchRom => true
  | _ => false

/-- `i` is a whole operation over steps `op` with results `mk`: a success of `op` is a response with status Ok, and
every rule applies to `op`. -/
structure OperationOf (i : Instr) {α : Type} (mk : α → Response) (op : State → Result α) : Prop where
  exec   : ∀ s, exec i s = operate mk op s
  status : ∀ a, (mk a).status = .ok
  search : ∀ {Q : (α : Type) → (State → Result α) → Prop}, SearchRule Q → Q α op
  line   : ∀ {Q : (α : Type) → (State → Result α) → Prop}, writesSearch i = false → OpRule Q → Q α op

theorem OperationOf.of_line {i : Instr} {α : Type} {mk : α → Response} {op : State → Result α}
    (hexec : ∀ s, Machine.exec i s = operate mk op s) (hmk : ∀ a, (mk a).status = .ok)
    (hline : ∀ {Q : (α : Type) → (State → Result α) → Prop}, OpRule Q → Q α op) : OperationOf i mk op :=
  ⟨hexec, hmk, fun h => hline h.toOpRule, fun _ => hline⟩

theorem OperationOf.of_search {i : Instr} {α : Type} {mk : α → Response} {op : State → Result α}
    (hi : writesSearch i = true) (hexec : ∀ s, Machine.exec i s = operate mk op s)
    (hmk : ∀ a, (mk a).status = .ok)
    (hsearch : ∀ {Q : (α : Type) → (State → Result α) → Prop}, SearchRule Q → Q α op) : OperationOf i mk op :=
  ⟨hexec, hmk, hsearch, fun h => absurd (hi.symm.trans h) (by decide)⟩

theorem ofSearch_status (a : Option Address) : (Response.ofSearch a).status = .ok := by cases a <;> rfl

/-- Every operation but MEASURE is a whole operation over steps to which the rules apply. -/
theorem exists_operationOf (i : Instr) (hi : ∀ a r, i ≠ .measure a r) :
    ∃ (α : Type) (mk : α → Response) (op : State → Result α), OperationOf i mk op := by
  cases i with
  | reset => exact ⟨_, _, _, .of_line (fun _ => rfl) (fun _ => rfl) (·.busReset)⟩
  | writeBit b => exact ⟨_, _, _, .of_line (fun _ => rfl) (fun _ => rfl) (·.writeBit b)⟩
  | readBit => exact ⟨_, _, _, .of_line (fun _ => rfl) (fun _ => rfl) (·.readBit)⟩
  | writeByte v => exact ⟨_, _, _, .of_line (fun _ => rfl) (fun _ => rfl) (·.writeByte v)⟩
  | readByte => exact ⟨_, _, _, .of_line (fun _ => rfl) (fun _ => rfl) (·.readByte)⟩
  | sendCommandSkip c => exact ⟨_, _, _, .of_line (fun _ => rfl) (fun _ => rfl) (·.sendCommand .skip c)⟩
  | sendCommandMatch a c => exact ⟨_, _, _, .of_line (fun _ => rfl) (fun _ => rfl) (·.sendCommand (.device a) c)⟩
  | search => exact ⟨_, _, _, .of_search rfl (fun _ => rfl) ofSearch_status (·.search)⟩
  | searchReset => exact ⟨_, _, _, .of_search rfl (fun _ => rfl) (fun _ => rfl) (·.searchReset)⟩
  | crcCheckAddr a => exact ⟨_, _, _, .of_line (fun _ => rfl) (fun _ => rfl) (·.checkCrc _)⟩
  | readScratchpad a => exact ⟨_, _, _, .of_line (fun _ => rfl) (fun _ => rfl) (·.readScratchpad a)⟩
  | writeScratchpad a th tl cfg =>
    exact ⟨_, _, _, .of_line (fun _ => rfl) (fun _ => rfl) (·.writeScratchpad a th tl cfg)⟩
  | getResolution a => exact ⟨_, _, _, .of_line (fun _ => rfl) (fun _ => rfl) (·.getResolution a)⟩
  | setResolution a r => exact ⟨_, _, _, .of_line (fun _ => rfl) (fun _ => rfl) (·.setResolution a r)⟩
  | startMeasurementSkip => exact ⟨_, _, _, .of_line (fun _ => rfl) (fun _ => rfl) (·.startMeasurement .skip)⟩
  | startMeasurementMatch a =>
    exact ⟨_, _, _, .of_line (fun _ => rfl) (fun _ => rfl) (·.startMeasurement (.device a))⟩
  | readTemp a r => exact ⟨_, _, _, .of_line (fun _ => rfl) (fun _ => rfl) (·.readTemp a r)⟩
  | measure a r => exact absurd rfl (hi a r)
  | cmdMatchRom a => exact ⟨_, _, _, .of_line (fun _ => rfl) (fun _ => rfl) (·.matchRom a)⟩
  | cmdSkipRom | cmdConvertT | cmdCopyScratchpad | cmdRecallE2 =>
    exact ⟨_, _, _, .of_line (fun _ => rfl) (fun _ => rfl) (·.writeByte _)⟩
  | cmdSearchRom =>
    exact ⟨_, _, _, .of_search rfl (fun _ => rfl) ofSearch_status fun h => h.searchExit h.searchPass⟩
  | cmdReadScratchpad => exact ⟨_, _, _, .of_line (fun _ => rfl) (fun _ => rfl) (·.readScratchpadPiece)⟩
  | cmdWriteScratchpad th tl cfg =>
    exact ⟨_, _, _, .of_line (fun _ => rfl) (fun _ => rfl) (·.writeScratchpadPiece th tl cfg)⟩

end Sys2Proof.Machine
end

section
/-! What every operation keeps: the answers are consumed in order up to the first fault (`60_exceptions.md` R182), the
line is released and no critical section open unless a pin faulted (R190, `10_state.md` R28), and the SearchState is
written by searches only (R25). Then MEASURE, in which such steps come before a wait and after it. -/

namespace Sys2Proof.Machine

/-! ## The answers consumed -/

/-- From `s` to `t` the environment has given `n` answers. -/
structure Consumed (s t : State) (n : Nat) : Prop where
  asked  : t.env.asked = s.env.asked + n
  script : t.env.script = s.env.script.drop n
  remote : t.env.remote.isSome = s.env.remote.isSome

theorem Consumed.refl (s : State) : Consumed s s 0 := ⟨rfl, rfl, rfl⟩

theorem Consumed.trans {s t u : State} {m n : Nat} (h : Consumed s t m) (g : Consumed t u n) :
    Consumed s u (m + n) where
  asked  := by rw [g.asked, h.asked, Nat.add_assoc]
  script := by rw [g.script, h.script, List.drop_drop]
  remote := g.remote.trans h.remote

theorem Consumed.faultAt {s t : State} {n : Nat} (h : Consumed s t n) (k : Nat) :
    t.env.faultAt k = s.env.faultAt (n + k) := by
  rw [← faultAt_advance]
  exact faultAt_congr (e := s.env.advance n) h.script h.asked h.remote k

/-- Answers that do not fault, and then others that do not. -/
theorem Consumed.unfaulted {s t : State} {m n : Nat} (h : Consumed s t m) (hs : s.env.Unfaulted m)
    (ht : t.env.Unfaulted n) : s.env.Unfaulted (m + n) := by
  intro k hk
  by_cases hm : k < m
  · exact hs k hm
  · have hf := ht (k - m) (by omega)
    rwa [h.faultAt, Nat.add_sub_cancel' (by omega)] at hf

/-- How the steps of an operation meet the answers: each answer consumed does not fault, or the last does and is what is
raised. -/
def Precise {α : Type} (s : State) : Result α → Prop
  | .raised (.pin e) t => ∃ n, Consumed s t (n + 1) ∧ s.env.Unfaulted n ∧ s.env.faultAt n = some e
  | .ok _ t | .raised _ t => ∃ n, Consumed s t n ∧ s.env.Unfaulted n

theorem unfaulted_zero (e : Env) : e.Unfaulted 0 := fun _ hk => absurd hk (Nat.not_lt_zero _)

theorem precise_ok {α : Type} (a : α) (s : State) : Precise s (.ok a s) := ⟨0, .refl s, unfaulted_zero _⟩

theorem precise_raised {α : Type} {e : Err} (he : ∀ x, e ≠ .pin x) {s t : State} {n : Nat} (h : Consumed s t n)
    (hu : s.env.Unfaulted n) : Precise s (.raised e t : Result α) := by
  cases e with
  | pin x => exact absurd rfl (he x)
  | busNotHigh | unexpectedResponse | familyCodeMismatch | crcMismatch => exact ⟨n, h, hu⟩

/-- What comes after answers that do not fault. -/
theorem Precise.after {α : Type} {s t : State} {n : Nat} {x : Result α} (h : Consumed s t n) (hu : s.env.Unfaulted n)
    (hx : Precise t x) : Precise s x := by
  rcases x with ⟨a, u⟩ | ⟨e, u⟩
  · obtain ⟨m, hm, hum⟩ := hx
    exact ⟨n + m, h.trans hm, h.unfaulted hu hum⟩
  · cases e with
    | pin e =>
      obtain ⟨m, hm, hum, hf⟩ := hx
      exact ⟨n + m, h.trans hm, h.unfaulted hu hum, by rwa [← h.faultAt]⟩
    | busNotHigh | unexpectedResponse | familyCodeMismatch | crcMismatch =>
      obtain ⟨m, hm, hum⟩ := hx
      exact ⟨n + m, h.trans hm, h.unfaulted hu hum⟩

theorem Precise.andThen {α β : Type} {s : State} {x : Result α} {f : α → State → Result β} (hx : Precise s x)
    (hf : ∀ a t, Precise t (f a t)) : Precise s (x.andThen f) := by
  rcases x with ⟨a, t⟩ | ⟨e, t⟩
  · obtain ⟨n, hn, hu⟩ := hx
    exact (hf a t).after hn hu
  · cases e <;> exact hx

/-- Updates of the state that ask the environment nothing may come first. -/
theorem Precise.from {α : Type} {s t : State} {x : Result α} (h : Consumed s t 0) (hx : Precise t x) : Precise s x :=
  hx.after h (unfaulted_zero _)

/-- A primitive takes one answer. -/
theorem precise_primitive {kind : Option SampleKind} {effect : Level → State → State} {s : State}
    (he : ∀ l t, Consumed t (effect l t) 0) : Precise s (primitive kind effect s) := by
  have htake : Consumed s (takeAnswer s) 1 := ⟨rfl, List.drop_one.symm, rfl⟩
  cases hf : s.env.faultAt 0 with
  | none =>
    obtain ⟨l, hl, -⟩ := primitive_unfaulted (kind := kind) (effect := effect) hf
    rw [hl]
    refine ⟨1, htake.trans (he l _), fun k hk => ?_⟩
    obtain rfl : k = 0 := by omega
    exact hf
  | some e =>
    rw [primitive_faulted hf]
    exact ⟨0, htake, unfaulted_zero _, hf⟩

theorem consumed_setDrive (d : Drive) (s : State) : Consumed s (setDrive d s) 0 := by cases d <;> exact ⟨rfl, rfl, rfl⟩
theorem consumed_emit (ev : Event) (s : State) : Consumed s (emit ev s) 0 := ⟨rfl, rfl, rfl⟩
theorem consumed_critEnter (s : State) : Consumed s (critEnter s) 0 := ⟨rfl, rfl, rfl⟩
theorem consumed_delay (us : Nat) (s : State) : Consumed s (delay us s) 0 := ⟨rfl, rfl, by simp⟩
theorem consumed_hold (own us : Nat) (s : State) : Consumed s (hold own us s) 0 := ⟨rfl, rfl, by simp [hold]⟩
theorem consumed_slotDone (slot : Slot) (s : State) : Consumed s (slotDone slot s) 0 := ⟨rfl, rfl, by simp⟩
theorem consumed_endSlot (slot : Slot) (us : Nat) (s : State) : Consumed s (slotDone slot (delay us (critExit s))) 0 :=
  ⟨rfl, rfl, by simp⟩

theorem precise_pinLow (s : State) : Precise s (pinLow s) :=
  (precise_primitive fun _ => consumed_setDrive .low).andThen fun _ _ => precise_ok () _
theorem precise_pinRelease (s : State) : Precise s (pinRelease s) :=
  (precise_primitive fun _ => consumed_setDrive .released).andThen fun _ _ => precise_ok () _
theorem precise_pinSample (k : SampleKind) (s : State) : Precise s (pinSample k s) :=
  precise_primitive fun _ => consumed_emit _

theorem precise_pollIdle (n : Nat) : ∀ s : State, Precise s (pollIdle n s) := by
  induction n with
  | zero => exact fun s => precise_raised (e := .busNotHigh) nofun (.refl s) (unfaulted_zero _)
  | succ n ih =>
    refine fun s => (precise_pinSample .poll s).andThen fun l t => ?_
    cases l
    · exact (ih _).from (consumed_hold _ _ t)
    · exact precise_ok () t

theorem precise_busReset (s : State) : Precise s (busReset s) := by
  refine (precise_pollIdle _ s).andThen fun _ s => (precise_pinLow s).andThen fun _ s => ?_
  refine ((precise_pinRelease _).from (consumed_hold _ _ s)).andThen fun _ s => ?_
  refine ((precise_pinSample _ _).from (consumed_delay _ s)).andThen fun l s => ?_
  have hslot := (consumed_delay s.params.timing.tRstr s).trans (consumed_slotDone (.reset (presentFlag l)) _)
  cases l
  · exact (precise_ok () _).from hslot
  · exact precise_raised (e := .unexpectedResponse) nofun hslot (unfaulted_zero _)

theorem precise_writeBit (b : Bool) (s : State) : Precise s (writeBit b s) := by
  refine ((precise_pinLow _).from (consumed_critEnter s)).andThen fun _ s => ?_
  refine ((precise_pinRelease _).from (consumed_hold _ _ s)).andThen fun _ s => ?_
  exact (precise_ok () _).from (consumed_endSlot _ _ s)

theorem precise_readBit (s : State) : Precise s (readBit s) := by
  refine ((precise_pinLow _).from (consumed_critEnter s)).andThen fun _ s => ?_
  refine ((precise_pinRelease _).from (consumed_hold _ _ s)).andThen fun _ s => ?_
  refine ((precise_pinSample _ _).from (consumed_delay _ s)).andThen fun l s => ?_
  exact (precise_ok _ _).from (consumed_endSlot _ _ s)

theorem precise_searchExit {α : Type} {s : State} {x : Result α} (hx : Precise s x) : Precise s (searchExit x) := by
  rcases x with ⟨a, t⟩ | ⟨e, t⟩
  · exact hx
  · have hdraw : Consumed t (drawSearch t) 0 := ⟨rfl, rfl, rfl⟩
    cases e with
    | pin | busNotHigh | unexpectedResponse =>
      obtain ⟨n, hn, h⟩ := hx
      exact ⟨n, hn.trans hdraw, h⟩
    | familyCodeMismatch | crcMismatch => exact hx

/-- All steps consume the answers in order, up to the first fault. -/
theorem precise_rule : SearchRule fun α op => ∀ s, Precise (α := α) s (op s) where
  pure a s := precise_ok a s
  raise _ he s := precise_raised he (.refl s) (unfaulted_zero _)
  bind hop hf s := (hop s).andThen fun a t => hf a t
  view hg s := hg _ _ s
  busReset := precise_busReset
  writeBit := precise_writeBit
  readBit := precise_readBit
  setSearch c hop s := Precise.from (t := setSearch c s) ⟨rfl, rfl, rfl⟩ (hop _)
  searchExit hop s := precise_searchExit (hop s)

/-! ## The line between two slots -/

/-- Between two slots: no critical section is open if none was before, and the line is released if it was before. -/
structure Calm (s t : State) : Prop where
  crit  : s.pin.crit = false → t.pin.crit = false
  drive : s.pin.drive = .released → t.pin.drive = .released

theorem Calm.refl (s : State) : Calm s s := ⟨id, id⟩
theorem Calm.trans {s t u : State} (h : Calm s t) (g : Calm t u) : Calm s u := ⟨g.crit ∘ h.crit, g.drive ∘ h.drive⟩

/-- Steps that end well, or in an error other than a pin fault, end between two slots. -/
def Tidy {α : Type} (s : State) : Result α → Prop
  | .raised (.pin _) _ => True
  | .ok _ t | .raised _ t => Calm s t

theorem tidy_raised {α : Type} {e : Err} {s t : State} (h : Calm s t) : Tidy s (.raised e t : Result α) := by
  cases e with
  | pin e => trivial
  | busNotHigh | unexpectedResponse | familyCodeMismatch | crcMismatch => exact h

theorem Tidy.after {α : Type} {s t : State} {x : Result α} (h : Calm s t) (hx : Tidy t x) : Tidy s x := by
  cases x with
  | ok a u => exact h.trans hx
  | raised e u =>
    cases e with
    | pin e => trivial
    | busNotHigh | unexpectedResponse | familyCodeMismatch | crcMismatch => exact h.trans hx

theorem Tidy.andThen {α β : Type} {s : State} {x : Result α} {f : α → State → Result β} (hx : Tidy s x)
    (hf : ∀ a t, Tidy t (f a t)) : Tidy s (x.andThen f) := by
  rcases x with ⟨a, t⟩ | ⟨e, t⟩
  · exact (hf a t).after hx
  · cases e <;> exact hx

theorem tidy_pin {α : Type} (e : PinErr) (s t : State) : Tidy s (.raised (.pin e) t : Result α) := trivial

/-- A primitive has its effect, or raises a pin fault. -/
theorem primitive_cases (kind : Option SampleKind) (effect : Level → State → State) (s : State) :
    (∃ l, primitive kind effect s = .ok l (effect l (takeAnswer s))) ∨
      ∃ e, primitive kind effect s = .raised (.pin e) (takeAnswer s) := by
  unfold primitive
  split
  · exact .inr ⟨_, rfl⟩
  · exact .inl ⟨_, rfl⟩

theorem pinLow_cases (s : State) :
    pinLow s = .ok () (setDrive .low (takeAnswer s)) ∨ ∃ e, pinLow s = .raised (.pin e) (takeAnswer s) := by
  unfold pinLow
  obtain ⟨l, h⟩ | ⟨e, h⟩ := primitive_cases none (fun _ => setDrive .low) s <;> rw [h]
  · exact .inl rfl
  · exact .inr ⟨e, rfl⟩

theorem pinRelease_cases (s : State) :
    pinRelease s = .ok () (setDrive .released (takeAnswer s)) ∨
      ∃ e, pinRelease s = .raised (.pin e) (takeAnswer s) := by
  unfold pinRelease
  obtain ⟨l, h⟩ | ⟨e, h⟩ := primitive_cases none (fun _ => setDrive .released) s <;> rw [h]
  · exact .inl rfl
  · exact .inr ⟨e, rfl⟩

theorem pinSample_cases (k : SampleKind) (s : State) :
    (∃ l, pinSample k s = .ok l (emit (.sample l) (takeAnswer s))) ∨
      ∃ e, pinSample k s = .raised (.pin e) (takeAnswer s) :=
  primitive_cases (some k) (fun l => emit (.sample l)) s

theorem tidy_pollIdle (n : Nat) : ∀ s : State, Tidy s (pollIdle n s) := by
  induction n with
  | zero => exact fun s => .refl s
  | succ n ih =>
    intro s
    rw [pollIdle]
    obtain ⟨l, h⟩ | ⟨e, h⟩ := pinSample_cases .poll s <;> rw [h]
    · cases l
      · exact Tidy.after (t := afterLowPoll s) ⟨id, id⟩ (ih _)
      · exact ⟨id, id⟩
    · exact tidy_pin e _ _

theorem tidy_busReset (s : State) : Tidy s (busReset s) := by
  refine (tidy_pollIdle _ s).andThen fun _ s => ?_
  obtain h | ⟨e, h⟩ := pinLow_cases s <;> rw [h]
  swap
  · exact tidy_pin e _ _
  simp only [andThen_ok]
  generalize hu : hold 0 _ (setDrive .low (takeAnswer s)) = u
  have hcrit : u.pin.crit = s.pin.crit := by rw [← hu]; rfl
  obtain h | ⟨e, h⟩ := pinRelease_cases u <;> rw [h]
  swap
  · exact tidy_pin e _ _
  simp only [andThen_ok]
  obtain ⟨l, h⟩ | ⟨e, h⟩ := pinSample_cases .presence (delay (setDrive .released (takeAnswer u)).params.timing.tPds
    (setDrive .released (takeAnswer u))) <;> rw [h]
  swap
  · exact tidy_pin e _ _
  cases l <;> exact ⟨fun h => hcrit.trans h, fun _ => rfl⟩

theorem tidy_writeBit (b : Bool) (s : State) : Tidy s (writeBit b s) := by
  unfold writeBit
  obtain h | ⟨e, h⟩ := pinLow_cases (critEnter s) <;> rw [h]
  swap
  · exact tidy_pin e _ _
  simp only [andThen_ok]
  generalize hold _ _ (setDrive .low (takeAnswer (critEnter s))) = u
  obtain h | ⟨e, h⟩ := pinRelease_cases u <;> rw [h]
  · exact ⟨fun _ => rfl, fun _ => rfl⟩
  · exact tidy_pin e _ _

theorem tidy_readBit (s : State) : Tidy s (readBit s) := by
  unfold readBit
  obtain h | ⟨e, h⟩ := pinLow_cases (critEnter s) <;> rw [h]
  swap
  · exact tidy_pin e _ _
  simp only [andThen_ok]
  generalize hold _ _ (setDrive .low (takeAnswer (critEnter s))) = u
  obtain h | ⟨e, h⟩ := pinRelease_cases u <;> rw [h]
  swap
  · exact tidy_pin e _ _
  simp only [andThen_ok]
  obtain ⟨l, h⟩ | ⟨e, h⟩ := pinSample_cases .read (delay (setDrive .released (takeAnswer u)).params.timing.tRds
    (setDrive .released (takeAnswer u))) <;> rw [h]
  · exact ⟨fun _ => rfl, fun _ => rfl⟩
  · exact tidy_pin e _ _

theorem tidy_searchExit {α : Type} {s : State} {x : Result α} (hx : Tidy s x) : Tidy s (searchExit x) := by
  rcases x with ⟨a, t⟩ | ⟨e, t⟩
  · exact hx
  · cases e with
    | pin => trivial
    | busNotHigh | unexpectedResponse => exact hx.trans ⟨id, id⟩
    | familyCodeMismatch | crcMismatch => exact hx

/-- All steps that do not end in a pin fault end between two slots. -/
theorem tidy_rule : SearchRule fun α op => ∀ s, Tidy (α := α) s (op s) where
  pure _ s := .refl s
  raise _ _ s := tidy_raised (.refl s)
  bind hop hf s := (hop s).andThen fun a t => hf a t
  view hg s := hg _ _ s
  busReset := tidy_busReset
  writeBit := tidy_writeBit
  readBit := tidy_readBit
  setSearch c hop s := Tidy.after (t := setSearch c s) ⟨id, id⟩ (hop _)
  searchExit hop s := tidy_searchExit (hop s)

/-! ## The SearchState, the ports and the devices' addresses -/

theorem lineOnly_rule : OpRule fun α op => ∀ s, LineOnly s (op s : Result α).final where
  pure _ _ := .refl
  raise _ _ _ := .refl
  bind hop hf s := lineOnly_andThen (hop s) hf
  view hg s := hg _ _ s
  busReset := lineOnly_busReset
  writeBit := lineOnly_writeBit
  readBit := lineOnly_readBit

theorem leaves_rule : SearchRule fun α op => ∀ s, Leaves s (op s : Result α).final where
  pure _ _ := .refl
  raise _ _ _ := .refl
  bind hop hf s := leaves_andThen (hop s) hf
  view hg s := hg _ _ s
  busReset s := (lineOnly_busReset s).toLeaves
  writeBit b s := (lineOnly_writeBit b s).toLeaves
  readBit s := (lineOnly_readBit s).toLeaves
  setSearch c hop s := (leaves_setSearch c s).trans (hop _)
  searchExit hop s := leaves_searchExit (hop s)

/-! ## The search registers stay in range -/

/-- A branch position is in the range of the register that records it (`10_state.md` R20). -/
theorem decideBit_inRange {c c' : SearchState} {p lastZero lastZero' : Nat} {a b dir : Bool} (hc : c.InRange)
    (hp : p ≤ 64) (hz : lastZero ≤ 64) (h : decideBit c p lastZero a b = some (dir, c', lastZero')) :
    c'.InRange ∧ lastZero' ≤ 64 := by
  obtain ⟨hd, hf⟩ := hc
  unfold decideBit at h
  split at h
  · cases h
  · cases h; exact ⟨⟨hd, hf⟩, hz⟩
  · cases h; exact ⟨⟨hd, hf⟩, hz⟩
  · split_ifs at h with hdir hfamily
    · cases h; exact ⟨⟨hd, hf⟩, hz⟩
    · cases h
      refine ⟨⟨hd, ?_⟩, hp⟩
      simp only [BitVec.toNat_ofNat]
      omega
    · cases h; exact ⟨⟨hd, hf⟩, hp⟩

/-- The cursor is in range, and a walk that reached its end has seen a branch position at most the last. -/
def WalkInRange (x : Result (Option Nat)) : Prop :=
  x.final.search.InRange ∧ ∀ z t, x = .ok (some z) t → z ≤ 64

theorem WalkInRange.andThen {α : Type} {x : Result α} {f : α → State → Result (Option Nat)}
    (hx : x.final.search.InRange) (hf : ∀ a t, t.search.InRange → WalkInRange (f a t)) :
    WalkInRange (x.andThen f) := by
  rcases x with ⟨a, t⟩ | ⟨e, t⟩
  · exact hf a t hx
  · exact ⟨hx, fun _ _ h => nomatch h⟩

/-- A walk from a cursor in range keeps it in range, and ends with a branch position. -/
theorem searchWalk_inRange (n : Nat) (hn : n ≤ 64) : ∀ (lastZero : Nat) (s : State), lastZero ≤ 64 → s.search.InRange →
    WalkInRange (searchWalk n lastZero s) := by
  induction n with
  | zero =>
    intro lastZero s hz hs
    refine ⟨hs, fun z t h => ?_⟩
    cases h
    exact hz
  | succ n ih =>
    intro lastZero s hz hs
    have hread (s : State) (hs : s.search.InRange) : (readBit s).final.search.InRange := by
      rwa [(lineOnly_readBit s).search]
    refine WalkInRange.andThen (hread s hs) fun a t ht => WalkInRange.andThen (hread t ht) fun b u hu => ?_
    rcases hd : decideBit u.search (64 - n) lastZero a b with _ | ⟨dir, c, z⟩
    · exact ⟨hu, fun _ _ h => nomatch h⟩
    obtain ⟨hc, hz'⟩ := decideBit_inRange hu (Nat.sub_le 64 n) hz hd
    refine WalkInRange.andThen ?_ fun _ v hv => ih (by omega) z v hz' hv
    rwa [(lineOnly_writeBit dir _).search]

theorem endOfPass_inRange {c : SearchState} {lastZero : Nat} (hc : c.InRange) (hz : lastZero ≤ 64) :
    (endOfPass c lastZero).InRange := by
  obtain ⟨-, hf⟩ := hc
  refine ⟨?_, hf⟩
  simp only [endOfPass, BitVec.toNat_ofNat]
  omega

/-- The drawn registers are in range (`41_rom_search.md` R128, `93_implementation_defined.md` U1). -/
theorem drawSearch_inRange (s : State) : (drawSearch s).search.InRange := by
  have hd := (Config.freeDiscrepancy s.draws).isLt
  have hf := (Config.freeFamilyDiscrepancy s.draws).isLt
  simp only [SearchState.InRange, drawSearch, BitVec.toNat_ofNat]
  omega

theorem searchZero_inRange : SearchState.zero.InRange := by decide

theorem searchEnd_inRange {walked : Option Nat} {s : State} (hz : ∀ z, walked = some z → z ≤ 64)
    (hs : s.search.InRange) : (searchEnd walked s).final.search.InRange := by
  cases walked with
  | none => exact searchZero_inRange
  | some z =>
    have hc := endOfPass_inRange hs (hz z rfl)
    unfold searchEnd
    dsimp only
    split <;> exact hc

theorem searchPass_inRange {s : State} (hs : s.search.InRange) : (searchPass s).final.search.InRange := by
  unfold searchPass
  have hw : (writeByte Config.cmdSearchRom s).final.search.InRange := by rwa [(lineOnly_writeByte _ s).search]
  refine final_andThen (P := fun t => t.search.InRange) hw fun _ t _ ht => ?_
  obtain ⟨hwalk, hz⟩ := searchWalk_inRange 64 (Nat.le_refl 64) 0 t (Nat.zero_le 64) ht
  exact final_andThen (P := fun t => t.search.InRange) hwalk fun walked u hok hu =>
    searchEnd_inRange (fun z hwalked => hz z u (hwalked ▸ hok)) hu

theorem searchExit_inRange {α : Type} {x : Result α} (h : x.final.search.InRange) :
    (searchExit x).final.search.InRange := by
  rcases x with ⟨a, t⟩ | ⟨e, t⟩
  · exact h
  · simp only [searchExit]
    split
    · exact drawSearch_inRange t
    · exact h

theorem search_inRange {s : State} (hs : s.search.InRange) : (search s).final.search.InRange := by
  unfold search
  split
  · exact searchZero_inRange
  · refine searchExit_inRange (final_andThen (P := fun t => t.search.InRange) ?_ fun _ t _ => searchPass_inRange)
    rwa [(lineOnly_busReset s).search]

end Sys2Proof.Machine
end

section
/-! Whole operations: how each ends, from how its steps end; MEASURE, whose steps come before a wait and after it; and
the step. -/

namespace Sys2Proof.Machine

/-! ## The end of an operation -/

/-- The response of a value, or of an error. -/
def Result.response {α : Type} (mk : α → Response) : Result α → Response
  | .ok a _ => mk a
  | .raised e s => .ofErr s.params e

section
variable {α : Type} (mk : α → Response) (x : Result α)

theorem deliverError_port (e : Err) (s : State) :
    (deliverError e s).port = { s.port with busy := false, respValid := true, resp := .ofErr s.params e } := by
  rw [deliverError]
  split <;> rfl

theorem finish_port : (finish mk x).port =
    { x.final.port with busy := false, respValid := true, resp := x.response mk } := by
  rcases x with ⟨a, s⟩ | ⟨e, s⟩
  · rfl
  · exact deliverError_port e s

@[simp] theorem finish_env : (finish mk x).env = x.final.env := by
  obtain ⟨r, u, h, rfl | rfl⟩ := finish_spec mk x <;> rw [h] <;> rfl
@[simp] theorem finish_search : (finish mk x).search = x.final.search := by
  obtain ⟨r, u, h, rfl | rfl⟩ := finish_spec mk x <;> rw [h] <;> rfl
@[simp] theorem finish_draws : (finish mk x).draws = x.final.draws := by
  obtain ⟨r, u, h, rfl | rfl⟩ := finish_spec mk x <;> rw [h] <;> rfl
@[simp] theorem finish_host : (finish mk x).host = x.final.host := by
  obtain ⟨r, u, h, rfl | rfl⟩ := finish_spec mk x <;> rw [h] <;> rfl
@[simp] theorem finish_params : (finish mk x).params = x.final.params := by
  obtain ⟨r, u, h, rfl | rfl⟩ := finish_spec mk x <;> rw [h] <;> rfl
@[simp] theorem finish_drive : (finish mk x).pin.drive = x.final.pin.drive := by
  obtain ⟨r, u, h, rfl | rfl⟩ := finish_spec mk x <;> rw [h] <;> rfl

end

/-- An error leaves no critical section open (`60_exceptions.md` R190). -/
theorem deliverError_crit (e : Err) (s : State) : (deliverError e s).pin.crit = false := by
  cases hcrit : s.pin.crit with
  | true => rw [deliverError_pin_of_crit e hcrit, critExit_pin_crit]
  | false => rw [deliverError_pin_of_not_crit e hcrit, hcrit]

/-- No operation over tidy steps leaves a critical section open. -/
theorem finish_crit {α : Type} (mk : α → Response) {s : State} {x : Result α} (hx : Tidy s x)
    (hs : s.pin.crit = false) : (finish mk x).pin.crit = false := by
  rcases x with ⟨a, t⟩ | ⟨e, t⟩
  · exact hx.crit hs
  · exact deliverError_crit e t

/-- The statuses that errors have (`60_exceptions.md` R180, R187). -/
theorem Err.status_ne (e : Err) : e.status ≠ .ok ∧ e.status ≠ .timeout ∧ e.status ≠ .illegal := by
  cases e <;> exact ⟨nofun, nofun, nofun⟩

/-- Only a pin fault has information to record (`60_exceptions.md` R180). -/
theorem Err.info_eq_zero {e : Err} (he : e.status ≠ .pin) (p : Params) : e.info p = 0 := by
  cases e with
  | pin x => exact absurd rfl he
  | _ => rfl

/-- An operation over tidy steps that does not end in a pin fault leaves a released line released. -/
theorem finish_released {α : Type} {mk : α → Response} {s : State} {x : Result α} (hx : Tidy s x)
    (hs : s.pin.drive = .released) (hpin : (finish mk x).port.resp.status ≠ .pin) :
    (finish mk x).pin.drive = .released := by
  rw [finish_drive]
  rw [finish_port] at hpin
  rcases x with ⟨a, t⟩ | ⟨e, t⟩
  · exact hx.drive hs
  · cases e with
    | pin p => exact absurd rfl hpin
    | busNotHigh | unexpectedResponse | familyCodeMismatch | crcMismatch => exact hx.drive hs

/-- An operation over steps that consume the answers in order ends in `Pin` exactly at the first fault. -/
theorem finish_precise {α : Type} {mk : α → Response} {s : State} {x : Result α} (hx : Precise s x)
    (hmk : ∀ a, (mk a).status = .ok) (hparams : x.final.params = s.params) : PinFaultPrecise s (finish mk x) := by
  rw [PinFaultPrecise, finish_env, finish_port]
  rcases x with ⟨a, t⟩ | ⟨e, t⟩
  · obtain ⟨n, hn, hu⟩ := hx
    exact ⟨n, hn.asked, hn.script, .inl ⟨hu, .inr ⟨rfl, ne_of_eq_of_ne (hmk a) (by decide)⟩⟩⟩
  · cases e with
    | pin p =>
      obtain ⟨n, hn, hu, hf⟩ := hx
      refine ⟨n + 1, hn.asked, hn.script, .inr ⟨p, n.succ_pos, hu, hf, rfl, ?_⟩⟩
      rw [← hparams]
      rfl
    | busNotHigh | unexpectedResponse | familyCodeMismatch | crcMismatch =>
      obtain ⟨n, hn, hu⟩ := hx
      exact ⟨n, hn.asked, hn.script, .inl ⟨hu, .inr ⟨rfl, nofun⟩⟩⟩

/-- A clean response: delivered, no critical section open, of a status that an operation has, and with nothing but its
code and information when it is an error (`30_encoding.md` R75, `60_exceptions.md` R187, R190). -/
def Responds (t : State) : Prop :=
  t.port.busy = false ∧ t.port.respValid = true ∧ t.pin.crit = false ∧ t.port.resp.status ≠ .timeout ∧
    t.port.resp.status ≠ .illegal ∧ (t.port.resp.status ≠ .ok →
      t.port.resp.temp = 0 ∧ t.port.resp.data = 0 ∧ (t.port.resp.status ≠ .pin → t.port.resp.aux = 0))

theorem finish_responds {α : Type} {mk : α → Response} {s : State} {x : Result α} (hx : Tidy s x)
    (hs : s.pin.crit = false) (hmk : ∀ a, (mk a).status = .ok) : Responds (finish mk x) := by
  have hcrit := finish_crit mk hx hs
  rw [Responds, finish_port]
  rcases x with ⟨a, t⟩ | ⟨e, t⟩
  · have hstatus := hmk a
    refine ⟨rfl, rfl, hcrit, ?_, ?_, fun h => absurd hstatus h⟩ <;> simp only [Result.response, hstatus] <;> decide
  · obtain ⟨-, htimeout, hillegal⟩ := e.status_ne
    exact ⟨rfl, rfl, hcrit, htimeout, hillegal, fun _ => ⟨rfl, rfl, fun he => Err.info_eq_zero he t.params⟩⟩

/-! ## MEASURE -/

/-- START_MEASUREMENT leaves the line released (`43_ds18b20.md` R160, R166). -/
theorem busReset_ok_released {s t : State} (h : busReset s = .ok () t) : t.pin.drive = .released := by
  obtain ⟨-, u, -, h⟩ := andThen_eq_ok.mp h
  obtain ⟨-, v, -, h⟩ := andThen_eq_ok.mp h
  obtain ⟨_, w, hw, h⟩ := andThen_eq_ok.mp h
  obtain ⟨l, x, hx, h⟩ := andThen_eq_ok.mp h
  have hdrive : w.pin.drive = .released := by
    obtain hr | ⟨e, hr⟩ := pinRelease_cases (hold 0 v.params.timing.tRstl v) <;> rw [hr] at hw
    · obtain ⟨-, rfl⟩ := Result.ok.inj hw
      rfl
    · cases hw
  have hx' : x.pin.drive = w.pin.drive := by
    obtain ⟨l', hr⟩ | ⟨e, hr⟩ := pinSample_cases .presence (delay w.params.timing.tPds w) <;> rw [hr] at hx
    · obtain ⟨-, rfl⟩ := Result.ok.inj hx
      rfl
    · cases hx
  cases l
  · obtain ⟨-, rfl⟩ := Result.ok.inj h
    exact hx'.trans hdrive
  · cases h

theorem sendCommand_ok_released {tgt : Target} {c : Byte} {s t : State} (h : sendCommand tgt c s = .ok () t) :
    t.pin.drive = .released := by
  obtain ⟨_, u, hu, h⟩ := andThen_eq_ok.mp h
  obtain ⟨_, v, hv, hw⟩ := andThen_eq_ok.mp h
  have hselect : Tidy u (select tgt u) := tidy_rule.toOpRule.select tgt u
  have hwrite : Tidy v (writeByte c v) := tidy_rule.toOpRule.writeByte c v
  rw [hv] at hselect
  rw [hw] at hwrite
  exact hwrite.drive (hselect.drive (busReset_ok_released hu))

theorem startMeasurement_ok_released {tgt : Target} {s t : State} (h : startMeasurement tgt s = .ok () t) :
    t.pin.drive = .released := by
  obtain ⟨_, u, -, hu⟩ := andThen_eq_ok.mp h
  exact sendCommand_ok_released hu

/-- How MEASURE goes: its start raises an error; or the wait is left pending; or it is answered at once. -/
theorem measure_cases (w : Suspended) (s : State) :
    (∃ e t, startMeasurement (.device w.addr) s = .raised e t ∧ measure w s = deliverError e t) ∨
      ∃ t, startMeasurement (.device w.addr) s = .ok () t ∧ t.host = s.host ∧
        measure w s = if s.host.waitDone then resumeMeasure w (raiseWait w t) else raiseWait w t := by
  have hline := lineOnly_startMeasurement (.device w.addr) s
  rw [measure]
  rcases hx : startMeasurement (.device w.addr) s with ⟨⟨⟩, t⟩ | ⟨e, t⟩
  · have hhost : t.host = s.host := (hx ▸ hline).host
    exact .inr ⟨t, rfl, hhost, by rw [← hhost]; rfl⟩
  · exact .inl ⟨e, t, rfl, rfl⟩

end Sys2Proof.Machine
end

section
/-! The statements about every operation and every step: who writes the cursor (`10_state.md` R25), precise pin faults
(`60_exceptions.md` R182, R190), the released line (`10_state.md` R28), clean responses, and the invariant. -/

namespace Sys2Proof.Machine

/-! ## MEASURE: what its parts keep -/

theorem Kept.trans {s t u : State} (h : Kept s t) (g : Kept t u) : Kept s u := by
  obtain ⟨h₁, h₂, h₃, h₄⟩ := h
  obtain ⟨g₁, g₂, g₃, g₄⟩ := g
  exact ⟨g₁.trans h₁, g₂.trans h₂, g₃.trans h₃, g₄.trans h₄⟩

theorem LineOnly.kept {s t : State} (h : LineOnly s t) : Kept s t := ⟨h.search, h.draws, h.host, h.params⟩

/-- An operation over steps that touch the line only, and its end. -/
theorem finish_kept {α : Type} (mk : α → Response) {s : State} {x : Result α} (h : LineOnly s x.final) :
    Kept s (finish mk x) := by
  simpa only [Kept, finish_search, finish_draws, finish_host, finish_params] using h.kept

theorem resumeMeasure_kept (w : Suspended) (s : State) : Kept s (resumeMeasure w s) :=
  finish_kept .ofTemp (s := endWait w s) (lineOnly_readTemp _ _ _)

theorem measure_kept (w : Suspended) (s : State) : Kept s (measure w s) := by
  have hline := lineOnly_startMeasurement (.device w.addr) s
  obtain ⟨e, t, hx, hm⟩ | ⟨t, hx, -, hm⟩ := measure_cases w s <;> rw [hx] at hline <;> rw [hm]
  · exact finish_kept (fun _ => .done) (x := .raised e t) hline
  · have hraise : Kept s (raiseWait w t) := hline.kept
    split
    · exact hraise.trans (resumeMeasure_kept w _)
    · exact hraise

end Sys2Proof.Machine

namespace Sys2Proof

open Machine

/-- Settles O36: the steps of every operation but a search touch the line only (`lineOnly_rule`), those of a search leave
the host's side and the parameters alone (`leaves_rule`), and MEASURE is its parts (`measure_kept`). -/
theorem otherOperationsKeepTheCursor : Obligations.OtherOperationsKeepTheCursor := by
  intro i s t h
  by_cases hi : ∃ a r, i = .measure a r
  · obtain ⟨a, r, rfl⟩ := hi
    obtain rfl := Host.Outcome.next.inj h
    obtain ⟨hsearch, hdraws, hhost, hparams⟩ := measure_kept ⟨a, r⟩ (accept s)
    exact ⟨fun _ _ _ => ⟨hsearch, hdraws⟩, hhost, hparams⟩
  · obtain ⟨α, mk, op, hop⟩ := exists_operationOf i fun a r hi' => hi ⟨a, r, hi'⟩
    obtain rfl := Host.Outcome.next.inj ((hop.exec s).symm.trans h)
    have hleaves := hop.search leaves_rule (accept s)
    refine ⟨fun hs hr hc => ?_, (finish_host mk _).trans hleaves.host, (finish_params mk _).trans hleaves.params⟩
    have hwrites : writesSearch i = false := by
      cases i with
      | search => exact absurd rfl hs
      | searchReset => exact absurd rfl hr
      | cmdSearchRom => exact absurd rfl hc
      | _ => rfl
    have hline := hop.line hwrites lineOnly_rule (accept s)
    exact ⟨(finish_search mk _).trans hline.search, (finish_draws mk _).trans hline.draws⟩

end Sys2Proof

namespace Sys2Proof.Machine

/-! ## Precise pin faults -/

/-- The step that ends a wait goes on consuming answers in order. -/
theorem precise_readTemp_endWait (w : Suspended) (s : State) :
    Precise s (readTemp w.addr w.res (endWait w s)) :=
  Precise.from (t := endWait w s) ⟨rfl, rfl, by simp⟩ (precise_rule.toOpRule.readTemp w.addr w.res _)

/-- A part of an operation that consumed answers without a fault, and what comes after it. -/
theorem resumeMeasure_precise {w : Suspended} {s t : State} {n : Nat} (h : Consumed s t n) (hu : s.env.Unfaulted n)
    (hparams : t.params = s.params) : PinFaultPrecise s (resumeMeasure w t) :=
  finish_precise ((precise_readTemp_endWait w t).after h hu) (fun _ => rfl)
    ((lineOnly_readTemp w.addr w.res (endWait w t)).params.trans hparams)

theorem measure_precise (w : Suspended) {s : State} (hbusy : s.port.busy = true) : PinFaultPrecise s (measure w s) := by
  have hstart := precise_rule.toOpRule.startMeasurement (.device w.addr) s
  have hline := lineOnly_startMeasurement (.device w.addr) s
  obtain ⟨e, t, hx, hm⟩ | ⟨t, hx, -, hm⟩ := measure_cases w s <;> rw [hx] at hstart hline <;> rw [hm]
  · exact finish_precise (mk := fun _ => .done) hstart (fun _ => rfl) hline.params
  · obtain ⟨n, hn, hu⟩ := hstart
    split
    · exact resumeMeasure_precise (t := raiseWait w t) ⟨hn.asked, hn.script, hn.remote⟩ hu hline.params
    · exact ⟨n, hn.asked, hn.script, .inl ⟨hu, .inl ⟨(congrArg Port.busy hline.port).trans hbusy, rfl⟩⟩⟩

/-- The step of a busy engine whose wait the host has answered. -/
theorem step_answered {s : State} {w : Suspended} (hrst : s.host.rst = false) (hbusy : s.port.busy = true)
    (hw : s.port.suspended = some w) (hdone : s.host.waitDone = true) : step s = .next (resumeMeasure w s) := by
  simp [step, hrst, hbusy, stepBusy, hw, hdone]

end Sys2Proof.Machine

namespace Sys2Proof

open Machine

/-- Settles O17: the steps of every operation consume the answers in order (`precise_rule`), those of MEASURE before its
wait and after it too (`measure_precise`, `resumeMeasure_precise`). -/
theorem pinFaultsArePrecise : Obligations.PinFaultsArePrecise := by
  refine ⟨fun i s t h => ?_, fun s t w hrst hbusy hw hdone h => ?_⟩
  · by_cases hi : ∃ a r, i = .measure a r
    · obtain ⟨a, r, rfl⟩ := hi
      obtain rfl := Host.Outcome.next.inj h
      exact measure_precise ⟨a, r⟩ (s := accept s) rfl
    · obtain ⟨α, mk, op, hop⟩ := exists_operationOf i fun a r hi' => hi ⟨a, r, hi'⟩
      obtain rfl := Host.Outcome.next.inj ((hop.exec s).symm.trans h)
      exact finish_precise (s := accept s) (hop.search precise_rule _) hop.status (hop.search leaves_rule _).params
  · obtain rfl := Host.Outcome.next.inj ((step_answered hrst hbusy hw hdone).symm.trans h)
    exact ⟨resumeMeasure_precise (.refl s) (unfaulted_zero _) rfl, by rw [resumeMeasure, finish_port]⟩

/-- Settles O16: steps that do not end in a pin fault leave a released line released (`tidy_rule`), in MEASURE before its
wait and after it. -/
theorem lineReleasedUnlessPinFault : Obligations.LineReleasedUnlessPinFault := by
  intro i s t hs h hend
  by_cases hi : ∃ a r, i = .measure a r
  · obtain ⟨a, r, rfl⟩ := hi
    obtain rfl := Host.Outcome.next.inj h
    have hstart := tidy_rule.toOpRule.startMeasurement (.device a) (accept s)
    obtain ⟨e, t, hx, hm⟩ | ⟨t, hx, -, hm⟩ := measure_cases ⟨a, r⟩ (accept s) <;> rw [hx] at hstart <;>
      rw [hm] at hend ⊢
    · refine finish_released (mk := fun _ => .done) (x := .raised e t) hstart hs (hend.resolve_left ?_)
      simp [deliverError_port]
    · split at hend
      · rename_i hdone
        rw [if_pos hdone]
        have hread := tidy_rule.toOpRule.readTemp a r (endWait ⟨a, r⟩ (raiseWait ⟨a, r⟩ t))
        refine finish_released hread (show t.pin.drive = _ from startMeasurement_ok_released hx) (hend.resolve_left ?_)
        simp [resumeMeasure, finish_port]
      · rename_i hdone
        rw [if_neg hdone, raiseWait_pin_drive]
        exact startMeasurement_ok_released hx
  · obtain ⟨α, mk, op, hop⟩ := exists_operationOf i fun a r hi' => hi ⟨a, r, hi'⟩
    obtain rfl := Host.Outcome.next.inj ((hop.exec s).symm.trans h)
    refine finish_released (hop.search tidy_rule (accept s)) hs (hend.resolve_left ?_)
    simp [finish_port]

end Sys2Proof

namespace Sys2Proof.Machine

/-! ## Responses -/

theorem resumeMeasure_responds (w : Suspended) {s : State} (hcrit : s.pin.crit = false) :
    Responds (resumeMeasure w s) :=
  finish_responds (s := endWait w s) (tidy_rule.toOpRule.readTemp _ _ _) hcrit fun _ => rfl

/-- A MEASURE whose wait is answered ends with a clean response. -/
theorem measure_responds (w : Suspended) {s : State} (hdone : s.host.waitDone = true) (hcrit : s.pin.crit = false) :
    Responds (measure w s) := by
  have hstart := tidy_rule.toOpRule.startMeasurement (.device w.addr) s
  obtain ⟨e, t, hx, hm⟩ | ⟨t, hx, -, hm⟩ := measure_cases w s <;> rw [hx] at hstart <;> rw [hm]
  · exact finish_responds (mk := fun _ => .done) (x := .raised e t) hstart hcrit fun _ => rfl
  · rw [if_pos hdone]
    exact resumeMeasure_responds w (hstart.crit hcrit)

/-! ## The step -/

/-- What a step is: a reset, a step of a wait, nothing, a pause, an operation, or an illegal code (`10_state.md` R29,
R30). -/
theorem step_cases (s : State) :
    s.host.rst = true ∧ step s = .next (engineReset s) ∨
    s.host.rst = false ∧ s.port.busy = true ∧ step s = .next (stepBusy s) ∨
    s.host.rst = false ∧ s.port.busy = false ∧ (s.host.inputs = [] ∧ step s = .next s ∨
      (∃ ms rest, s.host.inputs = .pause ms :: rest ∧ step s = .next (elapse ms (setInputs rest s))) ∨
      (∃ c rest i, s.host.inputs = .code c :: rest ∧ decode c = .ok i ∧ step s = exec i (setInputs rest s)) ∨
      ∃ rest, step s = .next (illegal (setInputs rest s))) := by
  cases hrst : s.host.rst
  swap
  · exact .inl ⟨rfl, by rw [step, if_pos hrst]⟩
  cases hbusy : s.port.busy
  swap
  · exact .inr (.inl ⟨rfl, rfl, by simp [step, hrst, hbusy]⟩)
  refine .inr (.inr ⟨rfl, rfl, ?_⟩)
  rcases hinputs : s.host.inputs with _ | ⟨c | ms, rest⟩
  · exact .inl ⟨rfl, by simp [step, fetch, hrst, hbusy, hinputs]⟩
  · rcases hdecode : decode c with e | i
    · exact .inr (.inr (.inr ⟨rest, step_undecodable hrst hbusy hinputs hdecode⟩))
    · exact .inr (.inr (.inl ⟨c, rest, i, rfl, hdecode, by simp [step, fetch, hrst, hbusy, hinputs, hdecode]⟩))
  · exact .inr (.inl ⟨ms, rest, rfl, by simp [step, fetch, hrst, hbusy, hinputs]⟩)

/-- Every operation answers a next state. -/
theorem exists_exec_next (i : Instr) (s : State) : ∃ t, exec i s = .next t := by
  by_cases hi : ∃ a r, i = .measure a r
  · obtain ⟨a, r, rfl⟩ := hi
    exact ⟨_, rfl⟩
  · obtain ⟨α, mk, op, hop⟩ := exists_operationOf i fun a r hi' => hi ⟨a, r, hi'⟩
    exact ⟨_, hop.exec s⟩

end Sys2Proof.Machine

namespace Sys2Proof

open Machine

/-- Settles O15: each kind of step answers a next state (`step_cases`), and every operation's end is a clean response,
its steps being tidy. -/
theorem everyOperationResponds : Obligations.EveryOperationResponds := by
  refine ⟨fun s => ?_, fun i s hdone hcrit => ?_⟩
  · obtain ⟨-, h⟩ | ⟨-, -, h⟩ | ⟨-, -, ⟨-, h⟩ | ⟨ms, rest, -, h⟩ | ⟨c, rest, i, -, -, h⟩ | ⟨rest, h⟩⟩ := step_cases s
    case inr.inr.inr.inr.inl => exact h ▸ exists_exec_next i _
    all_goals exact ⟨_, h⟩
  · by_cases hi : ∃ a r, i = .measure a r
    · obtain ⟨a, r, rfl⟩ := hi
      exact ⟨_, rfl, measure_responds ⟨a, r⟩ (s := accept s) hdone hcrit⟩
    · obtain ⟨α, mk, op, hop⟩ := exists_operationOf i fun a r hi' => hi ⟨a, r, hi'⟩
      exact ⟨_, hop.exec s, finish_responds (s := accept s) (hop.search tidy_rule _) hcrit hop.status⟩

/-- Settles O7: the fetch takes the code, and the step is the operation's meaning (`step_cases`). -/
theorem stepRunsTheDecodedOperation : Obligations.StepRunsTheDecodedOperation := by
  intro s c rest i hrst hbusy hinputs hdecode
  have hfetch : fetch s = .operation i rest := by simp only [fetch, hinputs, hdecode]
  rw [step, if_neg (by simp [hrst]), if_neg (by simp [hbusy]), hfetch]
  rfl

/-- Settles O9: without an answer the step of a busy engine is nothing, and with one it ends the operation
(`step_answered`, `resumeMeasure_kept`). -/
theorem busyEngineHoldsRequests : Obligations.BusyEngineHoldsRequests := by
  intro s w hrst hbusy hw
  refine ⟨fun hdone => by simp [step, hrst, hbusy, stepBusy, hw, hdone], fun hdone => ?_⟩
  obtain ⟨-, -, hhost, -⟩ := resumeMeasure_kept w s
  have hport := (lineOnly_readTemp w.addr w.res (endWait w s)).port
  refine ⟨_, step_answered hrst hbusy hw hdone, hhost, ?_⟩
  rw [resumeMeasure, finish_port, hport]
  exact ⟨rfl, rfl, rfl, rfl⟩

/-- Settles O13: the step is `engineReset`, which writes the engine and the input itself. -/
theorem resetInput : Obligations.ResetInput := by
  intro s hrst
  exact ⟨engineReset s, by rw [step, if_pos hrst], rfl, rfl, rfl, rfl, rfl, rfl, rfl, rfl, rfl, rfl, rfl⟩

/-- Settles O18: a field of a concatenation is the part that stands there. -/
theorem responseWordFields : Obligations.ResponseWordFields := by
  refine ⟨fun r => ?_, rfl, rfl, rfl, rfl, rfl, rfl, rfl, rfl⟩
  refine ⟨?_, ?_, ?_, ?_, ?_⟩ <;> refine BitVec.eq_of_getLsbD_eq fun i hi => ?_ <;>
    simp only [Response.toWord, BitVec.getLsbD_extractLsb', BitVec.getLsbD_append] <;> grind

end Sys2Proof
end

section
/-! The invariant of the machine (`10_state.md` R20, R34, `20_memory.md` R50, R66, `43_ds18b20.md` R166,
`60_exceptions.md` R190): each part of it is kept by steps that end tidily and leave the ports and the addresses alone,
so an operation that answers keeps it, and MEASURE left waiting has it too. -/

namespace Sys2Proof.Machine

/-- The invariant but for the handshake: what the steps of an operation keep between them. -/
structure State.Sound (s : State) : Prop where
  inRange : s.search.InRange
  memory  : ∀ m, s.env.remote = some m → Memory.wf m
  bounded : s.env.Bounded

theorem State.Sound.of_leaves {s t : State} (h : s.Sound) (hline : Leaves s t) (hc : t.search.InRange) : t.Sound :=
  ⟨hc, hline.wf h.memory, hline.bound h.bounded⟩

theorem State.Sound.of_lineOnly {s t : State} (h : s.Sound) (hline : LineOnly s t) : t.Sound :=
  h.of_leaves hline.toLeaves (hline.search ▸ h.inRange)

/-- Soundness is a matter of the SearchState and the environment. -/
theorem State.Sound.congr {s t : State} (h : s.Sound) (hc : t.search = s.search) (he : t.env = s.env) : t.Sound :=
  ⟨hc ▸ h.inRange, he ▸ h.memory, he ▸ h.bounded⟩

theorem State.Inv.sound {s : State} (h : s.Inv) : s.Sound := ⟨h.inRange, h.memory, h.bounded⟩

/-- An engine that is not busy has nothing suspended, and the invariant is soundness, `crit` and the ports. -/
theorem inv_of_idle {s : State} (h : s.Sound) (hcrit : s.pin.crit = false) (hbusy : s.port.busy = false)
    (hwait : s.port.waitReq = false) (hsusp : s.port.suspended = none) : s.Inv where
  inRange  := h.inRange
  crit     := hcrit
  busy     := by rw [hbusy, hsusp]; rfl
  waitReq  := by rw [hwait, hsusp]; rfl
  released := by rw [hsusp]; exact nofun
  memory   := h.memory
  bounded  := h.bounded

theorem State.Inv.suspended_of_idle {s : State} (h : s.Inv) (hbusy : s.port.busy = false) :
    s.port.suspended = none ∧ s.port.waitReq = false := by
  have hsusp : s.port.suspended.isSome = false := h.busy.symm.trans hbusy
  exact ⟨Option.not_isSome_iff_eq_none.mp (by simp [hsusp]), h.waitReq.trans hsusp⟩

/-- An operation that answers, over sound and tidy steps with no wait pending, keeps the invariant. -/
theorem finish_inv {α : Type} (mk : α → Response) {s : State} {x : Result α} (hsound : s.Sound)
    (hcrit : s.pin.crit = false) (hsusp : s.port.suspended = none) (hwait : s.port.waitReq = false)
    (htidy : Tidy s x) (hleaves : Leaves s x.final) (hrange : x.final.search.InRange) : (finish mk x).Inv := by
  have hport := finish_port mk x
  rw [hleaves.port] at hport
  obtain ⟨hc, hm, hb⟩ := hsound.of_leaves hleaves hrange
  refine inv_of_idle ⟨?_, ?_, ?_⟩ (finish_crit mk htidy hcrit) ?_ ?_ ?_
  · rwa [finish_search]
  · rwa [finish_env]
  · rwa [finish_env]
  · rw [hport]
  · rw [hport, ← hwait]
  · rw [hport, ← hsusp]

/-- The searches and SEARCH_RESET keep the search registers in range, as every operation does. -/
theorem operation_inRange {i : Instr} {α : Type} {mk : α → Response} {op : State → Result α}
    (hop : OperationOf i mk op) {s t : State} (hs : s.search.InRange) (h : exec i s = .next t) : t.search.InRange := by
  have hfinish {β : Type} (mk : β → Response) {x : Result β} (hx : x.final.search.InRange) :
      (finish mk x).search.InRange := by rwa [finish_search]
  cases hi : writesSearch i with
  | false =>
    obtain rfl := Host.Outcome.next.inj ((hop.exec s).symm.trans h)
    exact hfinish mk ((hop.line hi lineOnly_rule (accept s)).search ▸ hs)
  | true =>
    cases i with
    | search =>
      obtain rfl := Host.Outcome.next.inj h
      exact hfinish .ofSearch (search_inRange (s := accept s) hs)
    | searchReset =>
      obtain rfl := Host.Outcome.next.inj h
      exact searchZero_inRange
    | cmdSearchRom =>
      obtain rfl := Host.Outcome.next.inj h
      exact hfinish .ofSearch (searchExit_inRange (searchPass_inRange (s := accept s) hs))
    | _ => cases hi

/-- The end of a wait keeps the invariant. -/
theorem resumeMeasure_inv (w : Suspended) {s : State} (hsound : s.Sound) (hcrit : s.pin.crit = false) :
    (resumeMeasure w s).Inv := by
  have hend : (endWait w s).Sound :=
    (hsound.of_lineOnly (lineOnly_elapse w.res.convMs s)).congr rfl rfl
  have hline := lineOnly_readTemp w.addr w.res (endWait w s)
  exact finish_inv .ofTemp hend hcrit rfl rfl (tidy_rule.toOpRule.readTemp _ _ _) hline.toLeaves
    (hline.search ▸ hend.inRange)

/-- MEASURE keeps the invariant, left waiting too: then the engine is busy, and the line released. -/
theorem measure_inv (w : Suspended) {s : State} (hsound : s.Sound) (hcrit : s.pin.crit = false)
    (hbusy : s.port.busy = true) (hsusp : s.port.suspended = none) (hwait : s.port.waitReq = false) :
    (measure w s).Inv := by
  have hstart := tidy_rule.toOpRule.startMeasurement (.device w.addr) s
  have hline := lineOnly_startMeasurement (.device w.addr) s
  obtain ⟨e, t, hx, hm⟩ | ⟨t, hx, -, hm⟩ := measure_cases w s <;> rw [hx] at hstart hline <;> rw [hm]
  · exact finish_inv (fun _ => .done) (x := .raised e t) hsound hcrit hsusp hwait hstart hline.toLeaves
      (hline.search ▸ hsound.inRange)
  · have ht : t.Sound := hsound.of_lineOnly hline
    split
    · exact resumeMeasure_inv w (s := raiseWait w t) (ht.congr rfl rfl) (hstart.crit hcrit)
    · exact {
        inRange := ht.inRange
        crit := hstart.crit hcrit
        busy := (congrArg Port.busy hline.port).trans hbusy
        waitReq := rfl
        released := fun _ => (raiseWait_pin_drive t w).trans (startMeasurement_ok_released hx)
        memory := ht.memory
        bounded := ht.bounded }

/-- Every operation of an idle engine keeps the invariant. -/
theorem exec_inv {i : Instr} {s t : State} (h : s.Inv) (hbusy : s.port.busy = false) (hexec : exec i s = .next t) :
    t.Inv := by
  obtain ⟨hsusp, hwait⟩ := h.suspended_of_idle hbusy
  by_cases hi : ∃ a r, i = .measure a r
  · obtain ⟨a, r, rfl⟩ := hi
    obtain rfl := Host.Outcome.next.inj hexec
    exact measure_inv ⟨a, r⟩ (s := accept s) (h.sound.congr rfl rfl) h.crit rfl hsusp hwait
  · obtain ⟨α, mk, op, hop⟩ := exists_operationOf i fun a r hi' => hi ⟨a, r, hi'⟩
    have hrange := operation_inRange hop h.inRange hexec
    obtain rfl := Host.Outcome.next.inj ((hop.exec s).symm.trans hexec)
    rw [finish_search] at hrange
    exact finish_inv mk (s := accept s) (h.sound.congr rfl rfl) h.crit hsusp hwait
      (hop.search tidy_rule _) (hop.search leaves_rule _) hrange

end Sys2Proof.Machine

namespace Sys2Proof

open Machine

/-- Settles O10: the engine is idle, and no device is attached. -/
theorem invariantAtReset : Obligations.InvariantAtReset :=
  inv_of_idle ⟨searchZero_inRange, reset_memory_wf, fun _ _ _ _ hm => nomatch hm⟩ rfl rfl rfl rfl

/-- Settles O11, by the kinds of step (`step_cases`): a reset and a pause leave the devices to time alone, an operation
keeps the invariant by `exec_inv`, and the end of a wait by `resumeMeasure_inv`. -/
theorem stepKeepsInvariant : Obligations.StepKeepsInvariant := by
  intro s t h hstep
  obtain ⟨-, hs⟩ | ⟨-, hbusy, hs⟩ | ⟨-, hidle, hs⟩ := step_cases s
  · obtain rfl := Host.Outcome.next.inj (hs.symm.trans hstep)
    exact inv_of_idle ⟨searchZero_inRange, h.memory, h.bounded⟩ rfl rfl rfl rfl
  · obtain rfl := Host.Outcome.next.inj (hs.symm.trans hstep)
    unfold stepBusy
    split
    · split
      · exact resumeMeasure_inv _ h.sound h.crit
      · exact h
    · exact h
  · obtain ⟨hsusp, hwait⟩ := h.suspended_of_idle hidle
    obtain ⟨-, hs⟩ | ⟨ms, rest, -, hs⟩ | ⟨c, rest, i, -, -, hs⟩ | ⟨rest, hs⟩ := hs
    · obtain rfl := Host.Outcome.next.inj (hs.symm.trans hstep)
      exact h
    · obtain rfl := Host.Outcome.next.inj (hs.symm.trans hstep)
      have hsound : (elapse ms (setInputs rest s)).Sound :=
        State.Sound.of_lineOnly (s := setInputs rest s) (h.sound.congr rfl rfl) (lineOnly_elapse ms _)
      exact inv_of_idle hsound h.crit hidle hwait hsusp
    · have hinv : (setInputs rest s).Inv := inv_of_idle (h.sound.congr rfl rfl) h.crit hidle hwait hsusp
      exact exec_inv hinv hidle (hs.symm.trans hstep)
    · obtain rfl := Host.Outcome.next.inj (hs.symm.trans hstep)
      exact inv_of_idle (h.sound.congr rfl rfl) h.crit rfl hwait hsusp

end Sys2Proof
end

section
/-! Two statements about the sides of an operation: no step looks at the host's side, so a MEASURE goes on after its wait
as it would have without it (`00_scope.md` R17); and a failed search draws the cursor (`41_rom_search.md` R128). -/

namespace Sys2Proof.Machine

/-! ## Steps do not look at the host's side -/

/-- The host's side replaced. -/
def setHost (h : HostSide) (s : State) : State := { s with host := h }

/-- A result with its state changed. -/
def Result.mapState {α : Type} (g : State → State) : Result α → Result α
  | .ok a s => .ok a (g s)
  | .raised e s => .raised e (g s)

/-- Steps that do the same whatever the host's side is, and leave it alone. -/
def HostBlind {α : Type} (op : State → Result α) : Prop := ∀ h s, op (setHost h s) = (op s).mapState (setHost h)

theorem HostBlind.bind {α β : Type} {op : State → Result α} {f : α → State → Result β} (hop : HostBlind op)
    (hf : ∀ a, HostBlind (f a)) : HostBlind fun s => (op s).andThen f := by
  intro h s
  simp only [hop h s]
  rcases op s with ⟨a, t⟩ | ⟨e, t⟩
  · exact hf a h t
  · rfl

/-- An update of the state that does not touch the host's side, before such steps. -/
theorem HostBlind.after {α : Type} {op : State → Result α} {g : State → State} (hop : HostBlind op)
    (hg : ∀ h s, g (setHost h s) = setHost h (g s)) : HostBlind fun s => op (g s) := by
  intro h s
  simp only [hg, hop h]

theorem hostBlind_primitive (kind : Option SampleKind) {effect : Level → State → State}
    (he : ∀ l h s, effect l (setHost h s) = setHost h (effect l s)) : HostBlind (primitive kind effect) := by
  intro h s
  have ha : nextAnswer (setHost h s) kind = nextAnswer s kind := rfl
  have ht : takeAnswer (setHost h s) = setHost h (takeAnswer s) := rfl
  unfold primitive
  rw [ha, ht]
  cases nextAnswer s kind with
  | fault e => rfl
  | level l => exact congrArg (Result.ok l) (he l h _)

theorem hostBlind_pinLow : HostBlind pinLow :=
  (hostBlind_primitive none fun _ _ _ => rfl).bind fun _ _ _ => rfl
theorem hostBlind_pinRelease : HostBlind pinRelease :=
  (hostBlind_primitive none fun _ _ _ => rfl).bind fun _ _ _ => rfl
theorem hostBlind_pinSample (k : SampleKind) : HostBlind (pinSample k) := hostBlind_primitive (some k) fun _ _ _ => rfl

theorem hostBlind_pollIdle (n : Nat) : HostBlind (pollIdle n) := by
  induction n with
  | zero => exact fun _ _ => rfl
  | succ n ih =>
    refine (hostBlind_pinSample .poll).bind fun l => ?_
    cases l
    · exact ih.after (g := fun s => hold 0 s.params.timing.tPoll s) fun _ _ => rfl
    · exact fun _ _ => rfl

theorem hostBlind_busReset : HostBlind busReset := by
  have hpoll : HostBlind fun s => pollIdle s.params.timing.nPoll s := fun h s => hostBlind_pollIdle _ h s
  refine hpoll.bind fun _ => hostBlind_pinLow.bind fun _ => ?_
  refine (hostBlind_pinRelease.after (g := fun s => hold 0 s.params.timing.tRstl s) fun _ _ => rfl).bind fun _ => ?_
  refine ((hostBlind_pinSample .presence).after (g := fun s => delay s.params.timing.tPds s) fun _ _ => rfl).bind
    fun l => ?_
  cases l <;> exact fun _ _ => rfl

theorem hostBlind_writeBit (b : Bool) : HostBlind (writeBit b) := by
  refine (hostBlind_pinLow.after (g := critEnter) fun _ _ => rfl).bind fun _ => ?_
  refine (hostBlind_pinRelease.after
    (g := fun s => hold (writeLow s.params.timing b) (writeLow s.params.timing b) s) fun _ _ => rfl).bind fun _ => ?_
  exact fun _ _ => rfl

theorem hostBlind_readBit : HostBlind readBit := by
  refine (hostBlind_pinLow.after (g := critEnter) fun _ _ => rfl).bind fun _ => ?_
  refine (hostBlind_pinRelease.after
    (g := fun s => hold s.params.timing.tRdl s.params.timing.tRdl s) fun _ _ => rfl).bind fun _ => ?_
  refine ((hostBlind_pinSample .read).after (g := fun s => delay s.params.timing.tRds s) fun _ _ => rfl).bind
    fun l => ?_
  exact fun _ _ => rfl

/-- No step looks at the host's side. -/
theorem hostBlind_rule : OpRule fun _ op => HostBlind op where
  pure _ _ _ := rfl
  raise _ _ _ _ := rfl
  bind hop hf := hop.bind hf
  view hg h s := hg _ _ h s
  busReset := hostBlind_busReset
  writeBit := hostBlind_writeBit
  readBit := hostBlind_readBit

/-! ## A search that fails -/

/-- How the steps of a pass end: no draw is made, and the errors are those of the line, which draw the cursor, or
`CrcMismatch`, which does not. -/
structure PassEnds {α : Type} (s : State) (x : Result α) : Prop where
  draws  : x.final.draws = s.draws
  raised : ∀ e t, x = .raised e t → e.drawsSearch = true ∨ e = .crcMismatch

theorem PassEnds.andThen {α β : Type} {s : State} {x : Result α} {f : α → State → Result β} (hx : PassEnds s x)
    (hf : ∀ a t, PassEnds t (f a t)) : PassEnds s (x.andThen f) := by
  rcases x with ⟨a, t⟩ | ⟨e, t⟩
  · exact ⟨(hf a t).draws.trans hx.draws, (hf a t).raised⟩
  · exact ⟨hx.draws, fun _ _ h => hx.raised _ _ (by cases h; rfl)⟩

/-- Steps on the line that end in an error of the line. -/
theorem PassEnds.of_line {α : Type} {s : State} {x : Result α} (hx : LineOnly s x.final)
    (he : ∀ e t, x = .raised e t → e.drawsSearch = true) : PassEnds s x :=
  ⟨hx.draws, fun e t h => .inl (he e t h)⟩

/-- The errors that a chain raises are those of its parts. -/
theorem raised_andThen {α β : Type} {P : Err → Prop} {x : Result α} {f : α → State → Result β}
    (hx : ∀ e t, x = .raised e t → P e) (hf : ∀ a s e t, f a s = .raised e t → P e) :
    ∀ e t, x.andThen f = .raised e t → P e := by
  intro e t h
  obtain h | ⟨a, s, -, h⟩ := andThen_eq_raised.mp h
  · exact hx e t h
  · exact hf a s e t h

theorem primitive_raised {kind : Option SampleKind} {effect : Level → State → State} {s : State} :
    ∀ e t, primitive kind effect s = .raised e t → e.drawsSearch = true := by
  intro e t h
  obtain ⟨l, hl⟩ | ⟨x, hx⟩ := primitive_cases kind effect s
  · exact nomatch hl.symm.trans h
  · cases hx.symm.trans h
    rfl

theorem pinLow_raised (s : State) : ∀ e t, pinLow s = .raised e t → e.drawsSearch = true :=
  raised_andThen primitive_raised fun _ _ _ _ h => nomatch h
theorem pinRelease_raised (s : State) : ∀ e t, pinRelease s = .raised e t → e.drawsSearch = true :=
  raised_andThen primitive_raised fun _ _ _ _ h => nomatch h

theorem pollIdle_raised (n : Nat) : ∀ s e t, pollIdle n s = .raised e t → e.drawsSearch = true := by
  induction n with
  | zero =>
    intro s e t h
    cases h
    rfl
  | succ n ih =>
    refine fun s => raised_andThen primitive_raised fun l s => ?_
    cases l
    · exact ih _
    · exact fun _ _ h => nomatch h

theorem busReset_raised (s : State) : ∀ e t, busReset s = .raised e t → e.drawsSearch = true := by
  refine raised_andThen (pollIdle_raised _ s) fun _ s => raised_andThen (pinLow_raised s) fun _ s => ?_
  refine raised_andThen (pinRelease_raised _) fun _ s => raised_andThen primitive_raised fun l s e t h => ?_
  cases l <;> cases h
  rfl

theorem writeBit_raised (b : Bool) (s : State) : ∀ e t, writeBit b s = .raised e t → e.drawsSearch = true :=
  raised_andThen (pinLow_raised _) fun _ _ => raised_andThen (pinRelease_raised _) fun _ _ _ _ h => nomatch h

theorem readBit_raised (s : State) : ∀ e t, readBit s = .raised e t → e.drawsSearch = true :=
  raised_andThen (pinLow_raised _) fun _ _ => raised_andThen (pinRelease_raised _) fun _ _ =>
    raised_andThen primitive_raised fun _ _ _ _ h => nomatch h

theorem passEnds_writeBit (b : Bool) (s : State) : PassEnds s (writeBit b s) :=
  .of_line (lineOnly_writeBit b s) (writeBit_raised b s)
theorem passEnds_readBit (s : State) : PassEnds s (readBit s) := .of_line (lineOnly_readBit s) (readBit_raised s)

theorem passEnds_ok {α : Type} {s t : State} (a : α) (h : t.draws = s.draws) : PassEnds s (.ok a t) :=
  ⟨h, fun _ _ h => nomatch h⟩

theorem passEnds_writeBits (bs : List Bool) : ∀ s, PassEnds s (writeBits bs s) := by
  induction bs with
  | nil => exact fun s => passEnds_ok () rfl
  | cons b bs ih => exact fun s => (passEnds_writeBit b s).andThen fun _ => ih

theorem passEnds_searchWalk (n : Nat) : ∀ lastZero s, PassEnds s (searchWalk n lastZero s) := by
  induction n with
  | zero => exact fun lastZero s => passEnds_ok _ rfl
  | succ n ih =>
    refine fun lastZero s => (passEnds_readBit s).andThen fun a s => (passEnds_readBit s).andThen fun b s => ?_
    rcases decideBit s.search (64 - n) lastZero a b with _ | ⟨dir, c, z⟩
    · exact passEnds_ok _ rfl
    · have hw := passEnds_writeBit dir (setSearch (recordDir c (64 - n) dir) s)
      exact PassEnds.andThen ⟨hw.draws, hw.raised⟩ fun _ => ih z

theorem passEnds_searchEnd (walked : Option Nat) (s : State) : PassEnds s (searchEnd walked s) := by
  unfold searchEnd
  cases walked with
  | none => exact passEnds_ok _ rfl
  | some z =>
    dsimp only
    split
    · refine ⟨rfl, fun e t h => .inr ?_⟩
      cases h
      rfl
    · exact passEnds_ok _ rfl

theorem passEnds_searchPass (s : State) : PassEnds s (searchPass s) :=
  (passEnds_writeBits _ s).andThen fun _ s => (passEnds_searchWalk 64 0 s).andThen passEnds_searchEnd

theorem passEnds_resetPass (s : State) : PassEnds s ((busReset s).andThen fun _ => searchPass) :=
  (PassEnds.of_line (lineOnly_busReset s) (busReset_raised s)).andThen fun _ => passEnds_searchPass

/-- The statuses of the errors name them, pin faults by their kind. -/
theorem Err.drawsSearch_of_status_eq {e e' : Err} (h : e'.status = e.status) (he : e ≠ .crcMismatch) :
    e' ≠ .crcMismatch := by
  rintro rfl
  cases e with
  | crcMismatch => exact he rfl
  | busNotHigh | pin _ | unexpectedResponse | familyCodeMismatch => exact nomatch h

/-- An operation over the steps of a pass, whose errors draw the cursor: if its response is an error of the line, the
cursor is the one drawn. -/
theorem search_of_errorResponse {s t : State} {x : Result (Option Address)} {e : Err} (hx : PassEnds s x)
    (hresp : (searchExit x).response .ofSearch = .ofErr s.params e) (he : e ≠ .crcMismatch)
    (ht : t = finish .ofSearch (searchExit x)) :
    ∃ u, u.draws = s.draws ∧ t.search = (drawSearch u).search ∧ t.draws = s.draws + 1 := by
  subst ht
  have hstatus := congrArg Response.status hresp
  rcases x with ⟨a, u⟩ | ⟨e', u⟩
  · have hok : Status.ok = e.status := (ofSearch_status a).symm.trans hstatus
    exact absurd hok.symm e.status_ne.1
  · have hdraws : e'.drawsSearch = true := by
      refine (hx.raised e' u rfl).resolve_right (Err.drawsSearch_of_status_eq ?_ he)
      rw [searchExit] at hstatus
      exact hstatus
    refine ⟨u, hx.draws, ?_, ?_⟩
    · rw [finish_search, searchExit, if_pos hdraws]
      rfl
    · rw [finish_draws, searchExit, if_pos hdraws]
      exact congrArg (· + 1) hx.draws

theorem setHost_raiseWait (h : HostSide) (w : Suspended) (s : State) :
    raiseWait w (setHost h s) = setHost h (raiseWait w s) := rfl

end Sys2Proof.Machine

namespace Sys2Proof

open Machine

/-- Settles O32: a search is the end of a pass (`passEnds_resetPass`, `passEnds_searchPass`), and a pass whose response
is an error of the line has drawn the cursor (`search_of_errorResponse`). -/
theorem failedSearchDrawsTheCursor : Obligations.FailedSearchDrawsTheCursor := by
  intro i s t e hi hexec hresp he
  obtain ⟨-, hhost, hparams⟩ := otherOperationsKeepTheCursor i s t hexec
  have hpass : ∃ x, PassEnds (accept s) x ∧ t = finish .ofSearch (searchExit x) := by
    rcases hi with rfl | rfl
    · obtain rfl := Host.Outcome.next.inj hexec
      cases hflag : s.search.lastDeviceFlag with
      | true =>
        exact ⟨.ok none (searchReset (accept s)), passEnds_ok _ rfl,
          by rw [search_exhausted (s := accept s) hflag, searchExit]⟩
      | false =>
        refine ⟨_, passEnds_resetPass (accept s), ?_⟩
        rw [search, accept_search, hflag, if_neg Bool.false_ne_true]
    · obtain rfl := Host.Outcome.next.inj hexec
      exact ⟨_, passEnds_searchPass (accept s), rfl⟩
  obtain ⟨x, hx, rfl⟩ := hpass
  rw [finish_port] at hresp
  obtain ⟨u, hu, hsearch, hdraws⟩ := search_of_errorResponse hx hresp he rfl
  rw [accept_draws] at hu hdraws
  refine ⟨?_, hsearch ▸ drawSearch_inRange u, hdraws, hhost, hparams⟩
  rw [hsearch, drawSearch, hu]

/-- Settles O53: up to the wait the steps are the same whatever the host's side is (`hostBlind_rule`), and the step after
it is what MEASURE does with the wait answered. -/
theorem measureResumesWhereItWaited : Obligations.MeasureResumesWhereItWaited := by
  intro s t a r hexec hbusy
  obtain rfl := Host.Outcome.next.inj hexec
  have hblind := hostBlind_rule.startMeasurement (.device a) { s.host with waitDone := true, rst := false }
    (accept { s with host := { s.host with waitDone := false, rst := false } })
  obtain ⟨e, u, hx, hm⟩ | ⟨u, hx, hhost, hm⟩ :=
    measure_cases ⟨a, r⟩ (accept { s with host := { s.host with waitDone := false, rst := false } })
  · rw [hm, deliverError_port] at hbusy
    exact absurd hbusy Bool.false_ne_true
  · rw [hx] at hblind
    have hwait : measure ⟨a, r⟩ (accept { s with host := { s.host with waitDone := false, rst := false } }) =
        raiseWait ⟨a, r⟩ u := hm
    have hlater : measure ⟨a, r⟩ (accept { s with host := { s.host with waitDone := true, rst := false } }) =
        resumeMeasure ⟨a, r⟩ (raiseWait ⟨a, r⟩ (setHost { s.host with waitDone := true, rst := false } u)) := by
      obtain ⟨e, v, hy, -⟩ | ⟨v, hy, -, hm'⟩ :=
        measure_cases ⟨a, r⟩ (accept { s with host := { s.host with waitDone := true, rst := false } })
      · exact nomatch hy.symm.trans hblind
      · obtain ⟨-, rfl⟩ := Result.ok.inj (hy.symm.trans hblind)
        exact hm'
    rw [hwait] at hbusy ⊢
    have hside : ({ raiseWait ⟨a, r⟩ u with host := { (raiseWait ⟨a, r⟩ u).host with waitDone := true } } : State) =
        raiseWait ⟨a, r⟩ (setHost { s.host with waitDone := true, rst := false } u) := by
      rw [setHost_raiseWait, setHost, raiseWait_host, hhost]
      rfl
    rw [hside]
    exact (step_answered (s := raiseWait ⟨a, r⟩ (setHost { s.host with waitDone := true, rst := false } u)) rfl hbusy
      rfl rfl).trans (congrArg Host.Outcome.next hlater.symm)

end Sys2Proof
end

section
/-! The scratchpads: bytes and bits of a value written one at a time, what each step of a device does to them, and the
devices of a state followed one by one from a population given before (`20_memory.md` R52, R66). -/

namespace Sys2Proof.Machine

/-! ## Bytes and bits of a value (`00_scope.md` R13) -/

theorem getLsbD_byteAt {w : Nat} (x : BitVec w) (k i : Nat) :
    (byteAt x k).getLsbD i = (decide (i < 8) && x.getLsbD (8 * k + i)) := by
  rw [byteAt, BitVec.getLsbD_extractLsb']

theorem getLsbD_setByteAt {w : Nat} (x : BitVec w) (k : Nat) (v : Byte) (i : Nat) :
    (setByteAt x k v).getLsbD i =
      if 8 * k ≤ i ∧ i < 8 * k + 8 then decide (i < w) && v.getLsbD (i - 8 * k) else x.getLsbD i := by
  have hmask (j : Nat) : (0xFF#8).getLsbD j = decide (j < 8) := BitVec.getLsbD_allOnes (v := 8)
  by_cases hw : i < w
  · simp only [setByteAt, BitVec.getLsbD_or, BitVec.getLsbD_and, BitVec.getLsbD_not, BitVec.getLsbD_shiftLeft,
      BitVec.getLsbD_setWidth, hmask, hw, decide_true, Bool.true_and]
    by_cases hlow : i < 8 * k
    · simp [hlow, Nat.not_le_of_lt hlow]
    · have hsub : i - 8 * k < w := by omega
      by_cases hhigh : i < 8 * k + 8
      · have hbyte : i - 8 * k < 8 := by omega
        simp [hlow, hhigh, hsub, hbyte, Nat.le_of_not_lt hlow]
      · have hbyte : ¬ i - 8 * k < 8 := by omega
        simp [hlow, hhigh, hsub, hbyte, BitVec.getLsbD_of_ge v _ (Nat.le_of_not_lt hbyte)]
  · simp [BitVec.getLsbD_of_ge _ i (Nat.le_of_not_lt hw), hw]

theorem byteAt_setByteAt_ne {w k k' : Nat} (x : BitVec w) (v : Byte) (h : k ≠ k') :
    byteAt (setByteAt x k v) k' = byteAt x k' := by
  refine BitVec.eq_of_getLsbD_eq fun i hi => ?_
  have hout : ¬ (8 * k ≤ 8 * k' + i ∧ 8 * k' + i < 8 * k + 8) := by omega
  rw [getLsbD_byteAt, getLsbD_byteAt, getLsbD_setByteAt, if_neg hout]

theorem byteAt_setByteAt_same {k : Nat} (x : Scratchpad) (v : Byte) (hk : k < 9) : byteAt (setByteAt x k v) k = v := by
  refine BitVec.eq_of_getLsbD_eq fun i hi => ?_
  have hin : 8 * k ≤ 8 * k + i ∧ 8 * k + i < 8 * k + 8 := by omega
  have hw : 8 * k + i < 72 := by omega
  rw [getLsbD_byteAt, getLsbD_setByteAt, if_pos hin, Nat.add_sub_cancel_left]
  simp [hi, hw]

theorem getLsbD_setBit_same {w i : Nat} (x : BitVec w) (b : Bool) (hi : i < w) : (setBit x i b).getLsbD i = b := by
  cases b <;> simp [setBit, hi]

theorem byteAt_setBit_ne {w i k : Nat} (x : BitVec w) (b : Bool) (h : k ≠ i / 8) :
    byteAt (setBit x i b) k = byteAt x k := by
  refine BitVec.eq_of_getLsbD_eq fun j hj => ?_
  rw [getLsbD_byteAt, getLsbD_byteAt, getLsbD_setBit_ne x b (by omega)]

/-! ## The CRC of a scratchpad (`30_encoding.md` R83) -/

/-- The CRC byte depends on the eight bytes before it only. -/
theorem spCrc_setByteAt (sp : Scratchpad) (v : Byte) : spCrc (setByteAt sp 8 v) = spCrc sp := by
  rw [spCrc, spCrc, bytesOf, bytesOf]
  congr 1
  refine List.map_congr_left fun k hk => ?_
  have hk' : k < 8 := List.mem_range.mp hk
  exact byteAt_setByteAt_ne sp v (by omega)

theorem crcOk_scratchpad (sp : Scratchpad) : crcOk (bytesOf 9 sp) = (spCrc sp == byteAt sp 8) := by
  rw [bytesOf_succ, crcOk_concat, spCrc]

/-- A scratchpad with its CRC recomputed passes the check. -/
theorem crcOk_setByteAt_spCrc (sp : Scratchpad) : crcOk (bytesOf 9 (setByteAt sp 8 (spCrc sp))) = true := by
  rw [crcOk_scratchpad, spCrc_setByteAt, byteAt_setByteAt_same sp _ (by decide), beq_self_eq_true]

/-! ## The end of a conversion (R66) -/

theorem endConversion_byte {k : Nat} (n : Nat) (d : Device) (h : k ≠ 0 ∧ k ≠ 1 ∧ k ≠ 8) :
    byteAt (endConversion n d).sp k = byteAt d.sp k := by
  obtain ⟨h0, h1, h8⟩ := h
  rw [endConversion, byteAt_setByteAt_ne _ _ (Ne.symm h8), byteAt_setByteAt_ne _ _ (Ne.symm h1),
    byteAt_setByteAt_ne _ _ (Ne.symm h0)]

/-- Bytes 0 and 1 hold the raw temperature the conversion yields. -/
theorem endConversion_rawTemp (n : Nat) (d : Device) :
    rawTemp (byteAt (endConversion n d).sp 0) (byteAt (endConversion n d).sp 1) =
      d.temps.headD (Config.freeTemperature n d.rom) := by
  rw [endConversion, byteAt_setByteAt_ne _ _ (by decide), byteAt_setByteAt_ne _ _ (by decide),
    byteAt_setByteAt_same _ _ (by decide), byteAt_setByteAt_ne _ _ (by decide), byteAt_setByteAt_same _ _ (by decide)]
  generalize d.temps.headD (Config.freeTemperature n d.rom) = raw
  refine BitVec.eq_of_getLsbD_eq fun i hi => ?_
  simp only [rawTemp, BitVec.getLsbD_append, getLsbD_byteAt]
  by_cases hlow : i < 8
  · simp [hlow]
  · have hbyte : i - 8 < 8 := by omega
    simp [hlow, hbyte, Nat.add_sub_cancel' (Nat.le_of_not_lt hlow)]

theorem endConversion_crcOk (n : Nat) (d : Device) : crcOk (bytesOf 9 (endConversion n d).sp) = true :=
  crcOk_setByteAt_spCrc _

/-! ## What a device keeps -/

/-- The scratchpad bytes are the same, but for what the end of a conversion in progress writes (R66). -/
def SameBytes (d d' : Device) : Prop :=
  ∀ k : Fin 9, (d.converting = none ∨ (k ≠ 0 ∧ k ≠ 1 ∧ k ≠ 8)) → byteAt d'.sp k = byteAt d.sp k

/-- Besides, no conversion has been started in a device that was not converting, and one that was has ended at most once,
with the next temperature (R66; log 27). -/
structure Steady (d d' : Device) : Prop where
  bytes : SameBytes d d'
  still : d.converting = none → d'.converting = none
  drawn : ∃ n, n ≤ 1 ∧ (n ≠ 0 → d.converting ≠ none ∧ d'.converting = none) ∧ d'.temps = d.temps.drop n

/-- A step that writes neither the scratchpad nor the conversion nor the temperatures to come. -/
theorem steady_of_eq {d d' : Device} (hsp : d'.sp = d.sp) (hc : d'.converting = d.converting)
    (ht : d'.temps = d.temps) : Steady d d' :=
  ⟨fun _ _ => by rw [hsp], fun h => hc.trans h, 0, Nat.zero_le 1, fun h => absurd rfl h, ht⟩

theorem Steady.refl (d : Device) : Steady d d := steady_of_eq rfl rfl rfl

/-- Bytes that stay the same after a steady time. -/
theorem Steady.sameBytes {d d' d'' : Device} (h : Steady d d') (g : SameBytes d' d'') : SameBytes d d'' := by
  intro k hk
  rw [g k (hk.imp h.still id), h.bytes k hk]

theorem Steady.trans {d d' d'' : Device} (h : Steady d d') (g : Steady d' d'') : Steady d d'' := by
  refine ⟨h.sameBytes g.bytes, g.still ∘ h.still, ?_⟩
  obtain ⟨n, hn, hended, htemps⟩ := h.drawn
  obtain ⟨k, hk, hended', htemps'⟩ := g.drawn
  by_cases hn0 : n = 0
  · refine ⟨k, hk, fun h0 => ⟨fun hnone => (hended' h0).1 (h.still hnone), (hended' h0).2⟩, ?_⟩
    rw [htemps', htemps, hn0, List.drop_zero]
  · obtain ⟨hc, hnone⟩ := hended hn0
    have hk0 : k = 0 := by_contra fun h0 => (hended' h0).1 hnone
    refine ⟨n, hn, fun _ => ⟨hc, g.still hnone⟩, ?_⟩
    rw [htemps', hk0, List.drop_zero, htemps]

theorem steady_endConversion (n : Nat) {d : Device} (h : d.converting.isSome = true) :
    Steady d (endConversion n d) := by
  have hsome : d.converting ≠ none := fun hnone => by simp [hnone] at h
  refine ⟨fun k hk => ?_, fun _ => rfl, 1, Nat.le_refl 1, fun _ => ⟨hsome, rfl⟩, List.drop_one.symm⟩
  obtain ⟨h0, h1, h8⟩ := hk.resolve_left hsome
  exact endConversion_byte n d ⟨fun e => h0 (Fin.ext e), fun e => h1 (Fin.ext e), fun e => h8 (Fin.ext e)⟩

theorem steady_tickDevice (n now : Nat) (d : Device) : Steady d (tickDevice n now d) := by
  obtain h | ⟨hc, h⟩ := tickDevice_cases n now d <;> rw [h]
  · exact .refl d
  · exact steady_endConversion n hc

theorem steady_onReset (d : Device) : Steady d (onReset d) := steady_of_eq rfl rfl rfl

@[simp] theorem onReset_mode (d : Device) : (onReset d).mode = .romCommand 0 0 := rfl

theorem onRead_converting (d : Device) : (onRead d).converting = d.converting := by
  unfold onRead
  split <;> rfl

theorem onRead_temps (d : Device) : (onRead d).temps = d.temps := by
  unfold onRead
  split <;> rfl

theorem steady_onRead (d : Device) : Steady d (onRead d) :=
  steady_of_eq (onRead_sp d) (onRead_converting d) (onRead_temps d)

/-! ## The devices on the line, one by one -/

/-- The devices on the line are those of `m`, each come to what `Z` says of it. -/
def Via (Z : Device → Device → Prop) (m : Memory) (e : Env) : Prop :=
  ∃ m', e.remote = some m' ∧ List.Forall₂ (fun d d' => d'.rom = d.rom ∧ Z d d') m m'

theorem Via.of_remote {m : Memory} {e : Env} (h : e.remote = some m) : Via (fun d d' => d' = d) m e :=
  ⟨m, h, List.forall₂_same.mpr fun _ _ => ⟨rfl, rfl⟩⟩

theorem Via.mono {Z Z' : Device → Device → Prop} {m : Memory} {e : Env} (h : Via Z m e)
    (hZ : ∀ d d', Z d d' → Z' d d') : Via Z' m e := by
  obtain ⟨m', hr, hm⟩ := h
  exact ⟨m', hr, hm.imp fun d d' ⟨hrom, hz⟩ => ⟨hrom, hZ d d' hz⟩⟩

/-- Only the devices matter. -/
theorem Via.congr {Z : Device → Device → Prop} {m : Memory} {e e' : Env} (h : Via Z m e)
    (hr : e'.remote = e.remote) : Via Z m e' := by
  obtain ⟨m', hs, hm⟩ := h
  exact ⟨m', hr.trans hs, hm⟩

/-- A change of every device, each at its address. -/
theorem Via.map {Z Z' : Device → Device → Prop} {m : Memory} {e e' : Env} {f : Device → Device} (h : Via Z m e)
    (hr : e'.remote = e.remote.map fun m => m.map f) (hrom : ∀ d, (f d).rom = d.rom)
    (hf : ∀ d d', d'.rom = d.rom → Z d d' → Z' d (f d')) : Via Z' m e' := by
  obtain ⟨m', hs, hm⟩ := h
  refine ⟨m'.map f, by rw [hr, hs]; rfl, ?_⟩
  rw [List.forall₂_map_right_iff]
  exact hm.imp fun d d' ⟨hd, hz⟩ => ⟨(hrom d').trans hd, hf d d' hd hz⟩

theorem find_of_forall₂ {R : Device → Device → Prop} {m m' : Memory}
    (h : List.Forall₂ (fun d d' => d'.rom = d.rom ∧ R d d') m m') {a : Address} {d : Device}
    (hd : Memory.find m a = some d) : ∃ d', Memory.find m' a = some d' ∧ R d d' := by
  induction h with
  | nil => exact nomatch hd
  | @cons e e' l l' hR _ ih =>
    obtain ⟨hrom, hz⟩ := hR
    simp only [Memory.find, List.find?_cons] at hd ih ⊢
    cases ha : e.rom == a with
    | true =>
      rw [ha] at hd
      obtain rfl := Option.some.inj hd
      exact ⟨e', by rw [hrom, ha], hz⟩
    | false =>
      rw [ha] at hd
      simpa only [hrom, ha] using ih hd

/-- The device at an address. -/
theorem Via.find {Z : Device → Device → Prop} {m : Memory} {e : Env} (h : Via Z m e) :
    ∃ m', e.remote = some m' ∧
      ∀ {a : Address} {d : Device}, Memory.find m a = some d → ∃ d', Memory.find m' a = some d' ∧ Z d d' := by
  obtain ⟨m', hr, hm⟩ := h
  exact ⟨m', hr, find_of_forall₂ hm⟩

theorem bytesKept_of_find {m m' : Memory} {ex : Address → Fin 9 → Prop}
    (h : ∀ a d, Memory.find m a = some d → ∃ d', Memory.find m' a = some d' ∧ ∀ k : Fin 9, ¬ ex a k →
      (d.converting = none ∨ (k ≠ 0 ∧ k ≠ 1 ∧ k ≠ 8)) → byteAt d'.sp k = byteAt d.sp k) : BytesKept m m' ex := by
  intro a k d hd hex hk
  obtain ⟨d', hd', hbytes⟩ := h a d hd
  rw [Memory.readByte, Memory.readByte, hd, hd', Option.map_some, Option.map_some, hbytes k hex hk]

/-- Devices whose bytes are the same, but for those excepted. -/
theorem Via.bytesKept {Z : Device → Device → Prop} {m : Memory} {e : Env} {ex : Address → Fin 9 → Prop}
    (h : Via Z m e) (hZ : ∀ a d d', Memory.find m a = some d → Z d d' → ∀ k : Fin 9, ¬ ex a k →
      (d.converting = none ∨ (k ≠ 0 ∧ k ≠ 1 ∧ k ≠ 8)) → byteAt d'.sp k = byteAt d.sp k) :
    ∃ m', e.remote = some m' ∧ BytesKept m m' ex := by
  obtain ⟨m', hr, hfind⟩ := h.find
  refine ⟨m', hr, bytesKept_of_find fun a d hd => ?_⟩
  obtain ⟨d', hd', hz⟩ := hfind hd
  exact ⟨d', hd', hZ a d d' hd hz⟩

theorem Via.bytesKept_of_sameBytes {m : Memory} {e : Env} (h : Via SameBytes m e) :
    ∃ m', e.remote = some m' ∧ BytesKept m m' fun _ _ => False :=
  h.bytesKept fun _ _ _ _ hz k _ hk => hz k hk

/-! ## A pause -/

/-- What a pause of `ms` milliseconds from `s` leaves of a device: a conversion may have ended, and the low line may have
reset it. -/
def afterPause (s : State) (ms : Nat) (d : Device) : Device :=
  if s.pin.drive == .low && (s.env.pass s.pin.drive (1000 * ms)).isPulse 0
  then onReset (tickDevice s.env.ticks (s.env.elapsedUs + 1000 * ms) d)
  else tickDevice s.env.ticks (s.env.elapsedUs + 1000 * ms) d

theorem afterPause_rom (s : State) (ms : Nat) (d : Device) : (afterPause s ms d).rom = d.rom := by
  unfold afterPause
  split <;> simp

theorem steady_afterPause (s : State) (ms : Nat) (d : Device) : Steady d (afterPause s ms d) := by
  unfold afterPause
  split
  · exact (steady_tickDevice _ _ d).trans (steady_onReset _)
  · exact steady_tickDevice _ _ d

/-- A pause ends the conversions whose bound has passed. -/
theorem afterPause_due {s : State} {ms due : Nat} {d : Device} {c : Conversion} (hc : d.converting = some c)
    (hd : c.due = some due) (h : due ≤ s.env.elapsedUs + 1000 * ms) :
    (afterPause s ms d).converting = none ∧ (afterPause s ms d).temps = d.temps.tail ∧
      (afterPause s ms d).sp = (endConversion s.env.ticks d).sp := by
  rw [afterPause, tickDevice_due s.env.ticks hc hd h]
  split <;> exact ⟨rfl, rfl, rfl⟩

/-- The devices after a pause. -/
theorem via_elapse {m : Memory} {s : State} (ms : Nat) (h : s.env.remote = some m) :
    Via (fun d d' => d' = afterPause s ms d) m (elapse ms s).env := by
  refine (Via.of_remote h).map (f := afterPause s ms) ?_ (afterPause_rom s ms) ?_
  · rw [elapse_env_remote]
    congr 1
    funext m
    simp only [Memory.afterLow, Memory.afterWait, List.map_map]
    rfl
  · rintro d d' - rfl
    rfl

end Sys2Proof.Machine

namespace Sys2Proof

open Machine

/-- Settles O8: the step is the host's pause, and each device comes out of it as `afterPause` says (`via_elapse`). -/
theorem idleEngineWaits : Obligations.IdleEngineWaits := by
  intro s hrst hbusy
  refine ⟨fun hinputs => by simp [step, fetch, hrst, hbusy, hinputs], fun ms rest hinputs => ?_⟩
  have hstep : step s = .next (elapse ms (setInputs rest s)) := by simp [step, fetch, hrst, hbusy, hinputs]
  refine ⟨_, hstep, rfl, rfl, rfl, rfl, rfl, rfl, rfl, rfl, rfl, fun m hm => ?_⟩
  obtain ⟨m', hr, hfind⟩ := (via_elapse (s := setInputs rest s) ms hm).find
  refine ⟨m', hr, bytesKept_of_find fun a d hd => ?_, fun a d c due hd hc hdue hle => ?_⟩
  · obtain ⟨d', hd', rfl⟩ := hfind hd
    exact ⟨_, hd', fun k _ hk => (steady_afterPause _ ms d).bytes k hk⟩
  · obtain ⟨d', hd', rfl⟩ := hfind hd
    obtain ⟨hconv, htemps, hsp⟩ := afterPause_due (s := setInputs rest s) hc hdue hle
    refine ⟨_, hd', hconv, htemps, fun raw rest' htemp => ?_⟩
    rw [hsp, endConversion_rawTemp, htemp]
    rfl

end Sys2Proof
end

section
/-! The modes of a device over the slots of a byte stream (`20_memory.md` R66): which ones a selection and a command lead
to, and over which ones nothing is stored. -/

namespace Sys2Proof.Machine

/-! ## The mode after a slot -/

/-- The mode of the device at the address `rom` after a write slot: neither the scratchpad nor the time matters. -/
def modeWrite (rom : Address) (μ : Mode) (b : Bool) : Mode := (onWrite 0 b ⟨rom, 0, μ, none, []⟩).mode

theorem onWrite_mode (now : Nat) (b : Bool) (d : Device) : (onWrite now b d).mode = modeWrite d.rom d.mode b := by
  obtain ⟨rom, sp, mode, conv, temps⟩ := d
  rcases mode with ⟨k, acc⟩ | i | ⟨i, _ | _ | _⟩ | ⟨k, acc⟩ | j | j | _ <;>
    simp only [modeWrite, onWrite, onFunction, startConversion, onRecv] <;> split_ifs <;> rfl

/-- The mode after write slots of these bits. -/
def modeWrites (rom : Address) (μ : Mode) (bs : List Bool) : Mode := bs.foldl (modeWrite rom) μ

@[simp] theorem modeWrites_nil (rom : Address) (μ : Mode) : modeWrites rom μ [] = μ := rfl
@[simp] theorem modeWrites_cons (rom : Address) (μ : Mode) (b : Bool) (bs : List Bool) :
    modeWrites rom μ (b :: bs) = modeWrites rom (modeWrite rom μ b) bs := rfl
theorem modeWrites_append (rom : Address) (μ : Mode) (xs ys : List Bool) :
    modeWrites rom μ (xs ++ ys) = modeWrites rom (modeWrites rom μ xs) ys := by simp [modeWrites]

@[simp] theorem modeWrite_idle (rom : Address) (b : Bool) : modeWrite rom .idle b = .idle := rfl
@[simp] theorem modeWrites_idle (rom : Address) (bs : List Bool) : modeWrites rom .idle bs = .idle := by
  induction bs with
  | nil => rfl
  | cons b bs ih => exact ih

/-- The mode that a function command leads a selected device to (R66). -/
def functionMode (c : Byte) : Mode :=
  if c = Config.cmdReadScratchpad then .sendSp 0 else if c = Config.cmdWriteScratchpad then .recvSp 0 else .idle

theorem onFunction_mode (now : Nat) (d : Device) (c : Byte) : (onFunction now d c).mode = functionMode c := by
  unfold onFunction functionMode
  split_ifs <;> rfl

/-! ## Slots that store nothing -/

/-- A write slot of `b` stores nothing in a device in this mode, and starts no conversion. -/
def Quiet (μ : Mode) (b : Bool) : Prop :=
  (∀ j, μ ≠ .recvSp j) ∧ ∀ k acc, μ = .function k acc → k < 7 ∨ setBit acc k b ≠ Config.cmdConvertT

@[simp] theorem onRecv_converting (d : Device) (j : Nat) (b : Bool) : (onRecv d j b).converting = d.converting := by
  rw [onRecv]
  split <;> rfl

/-- A write slot starts a conversion only by ending a convert command. -/
theorem onWrite_converting {d : Device} {b : Bool} (now : Nat)
    (h : ∀ k acc, d.mode = .function k acc → k < 7 ∨ setBit acc k b ≠ Config.cmdConvertT) :
    (onWrite now b d).converting = d.converting := by
  obtain ⟨rom, sp, mode, conv, temps⟩ := d
  cases mode with
  | function k acc =>
    simp only [onWrite]
    split_ifs with hk
    · rfl
    · have hc := (h k acc rfl).resolve_left hk
      simp only [onFunction, hc, if_false]
      split_ifs <;> rfl
  | recvSp j => exact onRecv_converting _ j b
  | romCommand | matching =>
    simp only [onWrite]
    split_ifs <;> rfl
  | searching i p =>
    cases p with
    | direction =>
      simp only [onWrite]
      split_ifs <;> rfl
    | probe | complement => rfl
  | sendSp | idle => rfl

theorem onWrite_temps (now : Nat) (b : Bool) (d : Device) : (onWrite now b d).temps = d.temps := by
  obtain ⟨rom, sp, mode, conv, temps⟩ := d
  rcases mode with ⟨k, acc⟩ | i | ⟨i, _ | _ | _⟩ | ⟨k, acc⟩ | j | j | _ <;>
    simp only [onWrite, onFunction, startConversion, onRecv] <;> split_ifs <;> rfl

theorem steady_onWrite {d : Device} {b : Bool} (now : Nat) (h : Quiet d.mode b) : Steady d (onWrite now b d) := by
  obtain ⟨hrecv, hfun⟩ := h
  exact steady_of_eq (onWrite_sp now b hrecv) (onWrite_converting now hfun) (onWrite_temps now b d)

/-- A write slot writes no byte of a device that is not receiving a scratchpad. -/
theorem sameBytes_onWrite {d : Device} (now : Nat) (b : Bool) (h : ∀ j, d.mode ≠ .recvSp j) :
    SameBytes d (onWrite now b d) := fun _ _ => by rw [onWrite_sp now b h]

/-- Write slots of these bits store nothing in a device that is in this mode before them. -/
def QuietPath (rom : Address) : Mode → List Bool → Prop
  | _, [] => True
  | μ, b :: bs => Quiet μ b ∧ QuietPath rom (modeWrite rom μ b) bs

theorem quietPath_append {rom : Address} {xs ys : List Bool} {μ : Mode} (hx : QuietPath rom μ xs)
    (hy : QuietPath rom (modeWrites rom μ xs) ys) : QuietPath rom μ (xs ++ ys) := by
  induction xs generalizing μ with
  | nil => exact hy
  | cons b xs ih =>
    obtain ⟨hb, hxs⟩ := hx
    exact ⟨hb, ih hxs hy⟩

theorem quietPath_idle (rom : Address) (bs : List Bool) : QuietPath rom .idle bs := by
  induction bs with
  | nil => trivial
  | cons b bs ih => exact ⟨⟨nofun, nofun⟩, ih⟩

/-! ## Commands -/

/-- The bits of a byte make the byte. -/
theorem assemble_bitsOf (v : Byte) : assemble 0 0 (bitsOf v) = v := by revert v; decide +kernel

theorem modeWrite_romCommand {k : Nat} (hk : k < 7) (rom : Address) (acc : Byte) (b : Bool) :
    modeWrite rom (.romCommand k acc) b = .romCommand (k + 1) (setBit acc k b) := by
  simp [modeWrite, onWrite, hk]

theorem modeWrite_function {k : Nat} (hk : k < 7) (rom : Address) (acc : Byte) (b : Bool) :
    modeWrite rom (.function k acc) b = .function (k + 1) (setBit acc k b) := by
  simp [modeWrite, onWrite, hk]

/-- A ROM command collected to its last bit: nothing is stored, and its mode is entered (R66). -/
theorem romCommand_path (rom : Address) : ∀ (bs : List Bool) (k : Nat) (acc : Byte), bs ≠ [] → k + bs.length = 8 →
    QuietPath rom (.romCommand k acc) bs ∧
      modeWrites rom (.romCommand k acc) bs = romCommandMode (assemble k acc bs) := by
  intro bs
  induction bs with
  | nil => exact fun _ _ h => absurd rfl h
  | cons b bs ih =>
    intro k acc _ hk
    have hquiet : Quiet (.romCommand k acc) b := ⟨nofun, nofun⟩
    rcases bs with _ | ⟨c, bs⟩
    · obtain rfl : k = 7 := by simpa using hk
      exact ⟨⟨hquiet, trivial⟩, rfl⟩
    · have hlt : k < 7 := by simp at hk; omega
      obtain ⟨hpath, hmode⟩ := ih (k + 1) (setBit acc k b) (by simp) (by simp at hk ⊢; omega)
      refine ⟨⟨hquiet, ?_⟩, ?_⟩
      · rwa [modeWrite_romCommand hlt]
      · rwa [modeWrites_cons, modeWrite_romCommand hlt]

/-- A function command collected to its last bit enters its mode (R66); and it stores nothing and starts nothing unless
it is the convert command. -/
theorem function_path (rom : Address) : ∀ (bs : List Bool) (k : Nat) (acc : Byte), bs ≠ [] → k + bs.length = 8 →
    (assemble k acc bs ≠ Config.cmdConvertT → QuietPath rom (.function k acc) bs) ∧
      modeWrites rom (.function k acc) bs = functionMode (assemble k acc bs) := by
  intro bs
  induction bs with
  | nil => exact fun _ _ h => absurd rfl h
  | cons b bs ih =>
    intro k acc _ hk
    rcases bs with _ | ⟨c, bs⟩
    · obtain rfl : k = 7 := by simpa using hk
      refine ⟨fun hc => ⟨⟨nofun, fun k' acc' h => .inr ?_⟩, trivial⟩, onFunction_mode 0 _ _⟩
      cases h
      exact hc
    · have hlt : k < 7 := by simp at hk; omega
      obtain ⟨hpath, hmode⟩ := ih (k + 1) (setBit acc k b) (by simp) (by simp at hk ⊢; omega)
      refine ⟨fun hc => ⟨⟨nofun, fun k' acc' h => .inl ?_⟩, ?_⟩, ?_⟩
      · cases h
        exact hlt
      · rw [modeWrite_function hlt]
        exact hpath hc
      · rwa [modeWrites_cons, modeWrite_function hlt]

/-- The bits of a function command before its last store nothing and start nothing. -/
theorem quietPath_function (rom : Address) : ∀ (bs : List Bool) (k : Nat) (acc : Byte), k + bs.length ≤ 7 →
    QuietPath rom (.function k acc) bs ∧
      ∃ acc', modeWrites rom (.function k acc) bs = .function (k + bs.length) acc' := by
  intro bs
  induction bs with
  | nil => exact fun k acc _ => ⟨trivial, acc, rfl⟩
  | cons b bs ih =>
    intro k acc hk
    have hlt : k < 7 := by simp at hk; omega
    obtain ⟨hpath, acc', hmode⟩ := ih (k + 1) (setBit acc k b) (by simp at hk; omega)
    refine ⟨⟨⟨nofun, fun k' acc' h => .inl ?_⟩, ?_⟩, acc', ?_⟩
    · cases h
      exact hlt
    · rwa [modeWrite_function hlt]
    · rw [modeWrites_cons, modeWrite_function hlt, hmode, List.length_cons]
      congr 1
      omega

theorem romCommand_byte (rom : Address) (c : Byte) : QuietPath rom (.romCommand 0 0) (bitsOf c) ∧
    modeWrites rom (.romCommand 0 0) (bitsOf c) = romCommandMode c := by
  have h := romCommand_path rom (bitsOf c) 0 0 (bitsOf_ne_nil c) (by simp)
  rwa [assemble_bitsOf] at h

theorem function_byte (rom : Address) (c : Byte) :
    (c ≠ Config.cmdConvertT → QuietPath rom (.function 0 0) (bitsOf c)) ∧
      modeWrites rom (.function 0 0) (bitsOf c) = functionMode c := by
  have h := function_path rom (bitsOf c) 0 0 (bitsOf_ne_nil c) (by simp)
  rwa [assemble_bitsOf] at h

/-! ## Selections -/

/-- The bits of bytes are the bits of the value they make, in order (`20_memory.md` R54). -/
theorem flatMap_bitsOf_bytesOf {w : Nat} (n : Nat) (x : BitVec w) :
    (bytesOf n x).flatMap bitsOf = (List.range (8 * n)).map x.getLsbD := by
  induction n with
  | zero => rfl
  | succ n ih =>
    rw [bytesOf_succ, List.flatMap_append, ih, Nat.mul_succ, List.range_add, List.map_append, List.map_map]
    congr 1
    rw [List.flatMap_singleton, bitsOf]
    refine List.map_congr_left fun k hk => ?_
    exact (getLsbD_byteAt x n k).trans (by simp [List.mem_range.mp hk])

/-- The bits of an Address in the order they travel. -/
def addressBits (a : Address) : List Bool := (List.range 64).map a.getLsbD

/-- The bits of a selection (`30_encoding.md` R86). -/
def Target.bits : Target → List Bool
  | .skip => bitsOf Config.cmdSkipRom
  | .device a => bitsOf Config.cmdMatchRom ++ addressBits a

/-- The device is one that the selection selects. -/
def Target.selects : Target → Address → Prop
  | .skip, _ => True
  | .device a, rom => rom = a

theorem modeWrite_matching_mismatch {rom : Address} {i : Nat} {b : Bool} (h : b ≠ rom.getLsbD i) :
    modeWrite rom (.matching i) b = .idle := by
  simp [modeWrite, onWrite, h]

theorem modeWrite_matching (rom : Address) (i : Nat) :
    modeWrite rom (.matching i) (rom.getLsbD i) = if i < 63 then .matching (i + 1) else .function 0 0 := by
  simp [modeWrite, onWrite]

/-- After the first `n` bits of an address, a device goes on matching as long as they are its own. -/
theorem modeWrites_matching (rom a : Address) : ∀ n, n ≤ 64 →
    (QuietPath rom (.matching 0) ((List.range n).map a.getLsbD)) ∧
      ((∀ i, i < n → a.getLsbD i = rom.getLsbD i) →
        modeWrites rom (.matching 0) ((List.range n).map a.getLsbD) = if n < 64 then .matching n else .function 0 0) ∧
      ((∃ i, i < n ∧ a.getLsbD i ≠ rom.getLsbD i) →
        modeWrites rom (.matching 0) ((List.range n).map a.getLsbD) = .idle) := by
  intro n
  induction n with
  | zero => exact fun _ => ⟨trivial, fun _ => rfl, fun ⟨i, hi, _⟩ => absurd hi (Nat.not_lt_zero i)⟩
  | succ n ih =>
    intro hn
    obtain ⟨hpath, hmatch, hidle⟩ := ih (by omega)
    have hlt : n < 64 := by omega
    rw [List.range_succ, List.map_append, List.map_singleton, modeWrites_append]
    by_cases hall : ∀ i, i < n → a.getLsbD i = rom.getLsbD i
    · have hm := hmatch hall
      rw [if_pos hlt] at hm
      refine ⟨quietPath_append hpath ?_, fun h => ?_, fun ⟨i, hi, hne⟩ => ?_⟩
      · rw [hm]
        exact ⟨⟨nofun, nofun⟩, trivial⟩
      · rw [hm, h n (by omega), modeWrites_cons, modeWrites_nil, modeWrite_matching]
        by_cases h63 : n < 63
        · rw [if_pos h63, if_pos (by omega)]
        · rw [if_neg h63, if_neg (by omega)]
      · have hin : i = n := by
          by_contra hne'
          exact hne (hall i (by omega))
        subst hin
        rw [hm, modeWrites_cons, modeWrites_nil, modeWrite_matching_mismatch hne]
    · push Not at hall
      obtain ⟨i, hi, hne⟩ := hall
      have hm := hidle ⟨i, hi, hne⟩
      refine ⟨quietPath_append hpath ?_, fun h => absurd (h i (by omega)) hne, fun _ => ?_⟩
      · rw [hm]
        exact quietPath_idle rom _
      · rw [hm, modeWrites_idle]

/-- After a selection the selected devices wait for a function command and the others are idle (R66). -/
theorem selection_path (rom : Address) (t : Target) : QuietPath rom (.romCommand 0 0) t.bits ∧
    (t.selects rom → modeWrites rom (.romCommand 0 0) t.bits = .function 0 0) ∧
      (¬ t.selects rom → modeWrites rom (.romCommand 0 0) t.bits = .idle) := by
  cases t with
  | skip =>
    obtain ⟨hpath, hmode⟩ := romCommand_byte rom Config.cmdSkipRom
    exact ⟨hpath, fun _ => hmode, fun h => absurd trivial h⟩
  | device a =>
    obtain ⟨hpath, hmode⟩ := romCommand_byte rom Config.cmdMatchRom
    have hmatching : romCommandMode Config.cmdMatchRom = .matching 0 := rfl
    rw [hmatching] at hmode
    obtain ⟨hquiet, hmatch, hidle⟩ := modeWrites_matching rom a 64 (Nat.le_refl 64)
    simp only [Target.bits, modeWrites_append, hmode]
    refine ⟨quietPath_append hpath (by rwa [hmode]), fun h => hmatch fun i _ => ?_, fun h => hidle ?_⟩
    · rw [show rom = a from h]
    · by_contra hall
      push Not at hall
      exact h (BitVec.eq_of_getLsbD_eq fun i hi => (hall i hi).symm)

end Sys2Proof.Machine
end

section
/-! The devices over the slots, however an operation ends (`20_memory.md` R66, `60_exceptions.md` R190). -/

namespace Sys2Proof.Machine

/-! ## The devices over time and over a slot -/

/-- Time keeps what `Z` says of a device, whenever a conversion ends. -/
def TickStable (Z : Device → Device → Prop) : Prop := ∀ n now d d', d'.rom = d.rom → Z d d' → Z d (tickDevice n now d')

theorem Via.pass {Z : Device → Device → Prop} {m : Memory} {e : Env} (dr : Drive) (us : Nat) (h : Via Z m e)
    (ht : TickStable Z) : Via Z m (e.pass dr us) :=
  h.map (f := tickDevice e.ticks (e.elapsedUs + us)) rfl (tickDevice_rom _ _) fun d d' hrom hz => ht _ _ d d' hrom hz

theorem Via.afterDelay {Z : Device → Device → Prop} {m : Memory} {s : State} (us : Nat) (h : Via Z m s.env)
    (ht : TickStable Z) : Via Z m (delay us s).env := h.pass s.pin.drive us ht

theorem Via.rest {Z : Device → Device → Prop} {m : Memory} (delays : List Nat) (ht : TickStable Z) :
    ∀ {e : Env}, Via Z m e → Via Z m (e.rest delays) := by
  induction delays with
  | nil => exact id
  | cons us delays ih => exact fun h => ih (h.pass .released us ht)

theorem Via.time {Z : Device → Device → Prop} {m : Memory} {s : State} (x : Slot) (h : Via Z m s.env)
    (ht : TickStable Z) : Via Z m (slotEnv s x) :=
  Via.rest _ ht (Via.pass _ _ (h.congr rfl) ht)

/-- The slot ends a low time that is a reset pulse to the devices (`70_reset_and_hazards.md` R224). -/
def slotPulse (s : State) (x : Slot) : Bool :=
  x.lowUs s.params.timing < slotLowUs s x && Config.resetPulseUs ≤ slotLowUs s x

theorem slotPulse_eq_false {s : State} {x : Slot} (h : NoPulse s (x.lowUs s.params.timing)) :
    slotPulse s x = false := by
  rw [slotPulse, Bool.and_eq_false_iff, decide_eq_false_iff_not, decide_eq_false_iff_not, slotLowUs]
  rcases h with h | h | h
  · exact .inl (by simp [h])
  · exact .inl (by simp [h])
  · exact .inr (by split <;> omega)

theorem slotPulse_released {s : State} (x : Slot) (h : s.pin.drive = .released) : slotPulse s x = false :=
  slotPulse_eq_false (.inl h)

/-- The devices after a complete slot. -/
theorem Via.afterSlot {Z Z' : Device → Device → Prop} {m : Memory} {s : State} {x : Slot} (h : Via Z m s.env)
    (ht : TickStable Z)
    (hf : ∀ d d', d'.rom = d.rom → Z d d' →
      Z' d (onSlot (afterSlot s x).env.elapsedUs (slotPulse s x) x d')) : Via Z' m (afterSlot s x).env :=
  (h.time x ht).map (f := onSlot (slotEnv s x).elapsedUs (slotPulse s x) x) rfl (onSlot_rom _ _ _) hf

/-- The devices while the line is held low: no reset pulse while a slot's own low time lasts, or `Z` stays true of a
device that is reset. -/
theorem Via.afterHold {Z : Device → Device → Prop} {m : Memory} {s : State} (own us : Nat) (h : Via Z m s.env)
    (ht : TickStable Z)
    (hr : (delay us s).env.isPulse own = false ∨ ∀ d d', Z d d' → Z d (onReset d')) :
    Via Z m (hold own us s).env := by
  refine (h.afterDelay us ht).map
    (f := fun d => if (delay us s).pin.drive == .low && (delay us s).env.isPulse own then onReset d else d) rfl (fun d => by split <;> rfl) fun d d' _ hz => ?_
  rcases hr with hp | hr
  · rw [hp, Bool.and_false, if_neg nofun]
    exact hz
  · split
    · exact hr d d' hz
    · exact hz

/-! ## What an operation leads to, however it ends -/

/-- An operation that ends with a value ends in a state of `P`; one that ends in an error, in a state of `Q`. -/
def Ends {α : Type} (P Q : State → Prop) : Result α → Prop
  | .ok _ t => P t
  | .raised _ t => Q t

theorem Ends.andThen {α β : Type} {P P' Q : State → Prop} {x : Result α} {f : α → State → Result β} (hx : Ends P Q x)
    (hf : ∀ a s, P s → Ends P' Q (f a s)) : Ends P' Q (x.andThen f) := by
  cases x with
  | ok a s => exact hf a s hx
  | raised e s => exact hx

theorem Ends.mono {α : Type} {P P' Q Q' : State → Prop} {x : Result α} (hx : Ends P Q x) (hP : ∀ s, P s → P' s)
    (hQ : ∀ s, Q s → Q' s) : Ends P' Q' x := by
  cases x with
  | ok a s => exact hP s hx
  | raised e s => exact hQ s hx

/-- The state it ends in, if both ways are good. -/
theorem Ends.final {α : Type} {P : State → Prop} {x : Result α} (hx : Ends P P x) : P x.final := by
  cases x with
  | ok a s => exact hx
  | raised e s => exact hx

/-- The line is released and the devices are as `Z` says. -/
def Open (Z : Device → Device → Prop) (m : Memory) (s : State) : Prop := s.pin.drive = .released ∧ Via Z m s.env

/-- An operation that ends with a value leaves the line released and the devices as `Z` says; one that ends in an error
leaves them as `E` says. -/
abbrev Leads {α : Type} (Z E : Device → Device → Prop) (m : Memory) (x : Result α) : Prop :=
  Ends (Open Z m) (fun t => Via E m t.env) x

theorem Leads.weaken {α : Type} {Z Z' E E' : Device → Device → Prop} {m : Memory} {x : Result α} (hx : Leads Z E m x)
    (hZ : ∀ d d', Z d d' → Z' d d') (hE : ∀ d d', E d d' → E' d d') : Leads Z' E' m x :=
  hx.mono (fun _ ⟨hd, hz⟩ => ⟨hd, hz.mono hZ⟩) fun _ hz => hz.mono hE

/-- A slot from this line leads the devices from `Z` to `Z'`: by the slot itself, and by the reset pulse it may be the
end of if the line is low. -/
structure Slotwise (s : State) (x : Slot) (Z Z' : Device → Device → Prop) : Prop where
  tick  : TickStable Z
  slot  : ∀ now d d', d'.rom = d.rom → Z d d' → Z' d (onSlot now false x d')
  pulse : s.pin.drive = .released ∨ ∀ d d', Z d d' → Z d (onReset d') ∧ Z' d (onReset d')

theorem Slotwise.afterSlot {s : State} {x : Slot} {Z Z' : Device → Device → Prop} {m : Memory}
    (h : Slotwise s x Z Z') (hx : ∀ b, x ≠ .reset b) (hs : Via Z m s.env) : Via Z' m (afterSlot s x).env := by
  refine hs.afterSlot h.tick fun d d' hrom hz => ?_
  cases hp : slotPulse s x with
  | false => exact h.slot _ d d' hrom hz
  | true =>
    rcases h.pulse with hd | hr
    · rw [slotPulse_released x hd] at hp
      exact nomatch hp
    · cases x with
      | reset b => exact absurd rfl (hx b)
      | write b => exact (hr d d' hz).2
      | read b => exact (hr d d' hz).2

theorem Slotwise.hold {s u : State} {x : Slot} {Z Z' : Device → Device → Prop} {m : Memory} {own : Nat}
    (h : Slotwise s x Z Z') (hs : Via Z m s.env)
    (hu : u.env = (s.env.answered).driven s.pin.drive .low) (hlow : u.pin.drive = .low) :
    Via Z m (hold own own u).env := by
  refine Via.afterHold own own (hs.congr (by rw [hu]; rfl)) h.tick ?_
  rcases h.pulse with hd | hr
  · refine .inl ?_
    have hlowUs : (delay own u).env.lowUs = own := by
      simp [delay, Env.pass, hlow, hu, hd, Env.driven]
    rw [Env.isPulse, hlowUs, decide_eq_false (lt_irrefl own), Bool.false_and]
  · exact .inr fun d d' hz => (hr d d' hz).1

theorem leads_writeBit {s : State} {b : Bool} {Z Z' : Device → Device → Prop} {m : Memory}
    (h : Slotwise s (.write b) Z Z') (hs : Via Z m s.env) : Leads Z' Z m (writeBit b s) := by
  cases h0 : s.env.faultAt 0 with
  | some e =>
    rw [writeBit, pinLow_faulted (s := critEnter s) h0]
    exact hs.congr rfl
  | none =>
    cases h1 : s.env.faultAt 1 with
    | some e =>
      rw [writeBit, pinLow_unfaulted (s := critEnter s) h0, andThen_ok, pinRelease_faulted (e := e) (by simpa using h1)]
      exact (h.hold hs rfl rfl).congr rfl
    | none =>
      rw [writeBit_unfaulted b fun k hk => by interval_cases k <;> assumption]
      exact ⟨rfl, h.afterSlot nofun hs⟩

theorem leads_readBit {s : State} {Z Z' : Device → Device → Prop} {m : Memory}
    (h : ∀ b, Slotwise s (.read b) Z Z') (hs : Via Z m s.env) : Leads Z' Z m (readBit s) := by
  cases h0 : s.env.faultAt 0 with
  | some e =>
    rw [readBit, pinLow_faulted (s := critEnter s) h0]
    exact hs.congr rfl
  | none =>
    cases h1 : s.env.faultAt 1 with
    | some e =>
      rw [readBit, pinLow_unfaulted (s := critEnter s) h0, andThen_ok, pinRelease_faulted (e := e) (by simpa using h1)]
      exact ((h true).hold hs rfl rfl).congr rfl
    | none =>
      cases h2 : s.env.faultAt 2 with
      | some e =>
        rw [readBit, pinLow_unfaulted (s := critEnter s) h0, andThen_ok, pinRelease_unfaulted (by simpa using h1),
          andThen_ok, pinSample_faulted (e := e) .read (by simpa using h2)]
        exact ((((h true).hold hs rfl rfl).congr rfl).afterDelay _ (h true).tick).congr rfl
      | none =>
        obtain ⟨b, hb⟩ := readBit_ok (s := s) fun k hk => by interval_cases k <;> assumption
        rw [hb]
        exact ⟨rfl, (h b).afterSlot nofun hs⟩

/-! ## Bits in a row -/

/-- Write slots of these bits from a released line, each leading the devices on. -/
theorem leads_writeBits {m : Memory} {E : Device → Device → Prop} (Z : List Bool → Device → Device → Prop)
    (hE : ∀ bs d d', Z bs d d' → E d d') (htick : ∀ bs, TickStable (Z bs))
    (hstep : ∀ b bs now d d', d'.rom = d.rom → Z (b :: bs) d d' → Z bs d (onWrite now b d')) :
    ∀ (bs : List Bool) (s : State), Open (Z bs) m s → Leads (Z []) E m (writeBits bs s) := by
  intro bs
  induction bs with
  | nil => exact fun s hs => hs
  | cons b bs ih =>
    intro s ⟨hd, hs⟩
    have hslot : Slotwise s (.write b) (Z (b :: bs)) (Z bs) := ⟨htick _, hstep b bs, .inl hd⟩
    exact ((leads_writeBit hslot hs).weaken (fun _ _ => id) (hE _)).andThen fun _ t => ih t

theorem writeBits_flatMap (vs : List Byte) : ∀ s : State, writeBytes vs s = writeBits (vs.flatMap bitsOf) s := by
  induction vs with
  | nil => exact fun _ => rfl
  | cons v vs ih =>
    intro s
    rw [List.flatMap_cons, writeBits_append, writeBytes, writeByte]
    congr 1
    funext _ t
    exact ih t

theorem select_eq_writeBits (t : Target) (s : State) : select t s = writeBits t.bits s := by
  cases t with
  | skip => rfl
  | device a =>
    rw [select, matchRom, Target.bits, writeBits_append, writeByte]
    congr 1
    funext _ u
    rw [writeBits_flatMap, addressBytes, flatMap_bitsOf_bytesOf, addressBits]

/-- What a read slot keeps of a device, whatever the line. -/
structure ReadStable (Z : Device → Device → Prop) : Prop where
  tick  : TickStable Z
  read  : ∀ d d', d'.rom = d.rom → Z d d' → Z d (onRead d')
  reset : ∀ d d', Z d d' → Z d (onReset d')

theorem ReadStable.slotwise {Z : Device → Device → Prop} (h : ReadStable Z) (s : State) (b : Bool) :
    Slotwise s (.read b) Z Z :=
  ⟨h.tick, fun _ => h.read, .inr fun d d' hz => ⟨h.reset d d' hz, h.reset d d' hz⟩⟩

/-- However it ends, it leaves the devices as `Z` says. -/
abbrev Keeps {α : Type} (Z : Device → Device → Prop) (m : Memory) (x : Result α) : Prop :=
  Ends (fun t => Via Z m t.env) (fun t => Via Z m t.env) x

theorem Leads.keeps {α : Type} {Z : Device → Device → Prop} {m : Memory} {x : Result α} (hx : Leads Z Z m x) :
    Keeps Z m x := hx.mono (fun _ h => h.2) fun _ => id

section
variable {m : Memory} {Z : Device → Device → Prop} (hZ : ReadStable Z)
include hZ

theorem keeps_readBit {s : State} (hs : Via Z m s.env) : Keeps Z m (readBit s) :=
  Leads.keeps (leads_readBit (hZ.slotwise s) hs)

theorem keeps_readBits (n : Nat) :
    ∀ (k : Nat) (v : Byte) (s : State), Via Z m s.env → Keeps Z m (readBits n k v s) := by
  induction n with
  | zero => exact fun _ _ _ hs => hs
  | succ n ih => exact fun k v _ hs => (keeps_readBit hZ hs).andThen fun b t => ih (k + 1) (setBit v k b) t

theorem keeps_readBytes (n : Nat) : ∀ s : State, Via Z m s.env → Keeps Z m (readBytes n s) := by
  induction n with
  | zero => exact fun _ hs => hs
  | succ n ih =>
    exact fun _ hs => (keeps_readBits hZ 8 0 0 _ hs).andThen fun _ t ht => (ih t ht).andThen fun _ _ hu => hu

end

/-! ## The reset slot -/

section
variable {m : Memory} {Z : Device → Device → Prop} {s : State}

theorem keeps_pinLow (h : Via Z m s.env) : Keeps Z m (pinLow s) := by
  obtain hs | ⟨e, hs⟩ := pinLow_cases s <;> rw [hs] <;> exact h.congr rfl

theorem leads_pinRelease (h : Via Z m s.env) : Leads Z Z m (pinRelease s) := by
  obtain hs | ⟨e, hs⟩ := pinRelease_cases s <;> rw [hs]
  · exact ⟨rfl, h.congr rfl⟩
  · exact h.congr rfl

theorem leads_pinSample (k : SampleKind) (h : Open Z m s) : Leads Z Z m (pinSample k s) := by
  obtain ⟨hd, hz⟩ := h
  obtain ⟨l, hs⟩ | ⟨e, hs⟩ := pinSample_cases k s <;> rw [hs]
  · exact ⟨hd, hz.congr rfl⟩
  · exact hz.congr rfl

/-- The poll leaves the devices as `Z` says, if time and a reset pulse do. -/
theorem keeps_pollIdle (ht : TickStable Z) (hr : ∀ d d', Z d d' → Z d (onReset d')) (n : Nat) :
    ∀ s : State, Via Z m s.env → Keeps Z m (pollIdle n s) := by
  induction n with
  | zero => exact fun _ hs => hs
  | succ n ih =>
    intro s hs
    obtain ⟨l, h⟩ | ⟨e, h⟩ := pinSample_cases .poll s <;> rw [pollIdle, h]
    · cases l with
      | high => exact hs.congr rfl
      | low => exact ih _ (Via.afterHold 0 _ (hs.congr rfl) ht (.inr hr))
    · exact hs.congr rfl

/-- After a reset slot each device waits for a ROM command; one cut short leaves the devices as `Z` says, if time and a
reset pulse do. -/
theorem leads_busReset (ht : TickStable Z) (hr : ∀ d d', Z d d' → Z d (onReset d')) (hs : Via Z m s.env) :
    Leads (fun d d' => Z d d' ∧ d'.mode = .romCommand 0 0) Z m (busReset s) := by
  refine (keeps_pollIdle ht hr _ s hs).andThen fun _ t h => (keeps_pinLow h).andThen fun _ t h => ?_
  refine (leads_pinRelease (Via.afterHold 0 _ h ht (.inr hr))).andThen fun _ t ⟨hd, h⟩ => ?_
  refine (leads_pinSample (s := delay _ t) .presence ⟨hd, h.afterDelay _ ht⟩).andThen fun l t ⟨hd, h⟩ => ?_
  have hend : Via (fun d d' => Z d d' ∧ d'.mode = .romCommand 0 0) m
      (slotDone (.reset (presentFlag l)) (delay t.params.timing.tRstr t)).env :=
    (h.afterDelay _ ht).map (f := onReset) rfl (fun _ => rfl) fun d d' _ hz => ⟨hr d d' hz, rfl⟩
  dsimp only
  split
  · exact ⟨hd, hend⟩
  · exact hend.mono fun _ _ h => h.1

end

end Sys2Proof.Machine
end

section
/-! What the devices keep over an operation that stores nothing in them, however it ends (`20_memory.md` R52, R66). -/

namespace Sys2Proof.Machine

variable {m : Memory} {P : Device → Prop} {s : State}

/-! ## Devices whose mode is known -/

/-- A device of `P` keeps what a steady time keeps. -/
def Still (P : Device → Prop) (d d' : Device) : Prop := P d → Steady d d'

/-- Besides, its mode is `μ`. -/
def Tracked (P : Device → Prop) (μ : Device → Mode) (d d' : Device) : Prop := P d → Steady d d' ∧ d'.mode = μ d

/-- A device of `P` keeps its scratchpad bytes, but for what the end of a conversion in progress writes. -/
def Unstored (P : Device → Prop) (d d' : Device) : Prop := P d → SameBytes d d'

theorem Tracked.still {μ : Device → Mode} {d d' : Device} (h : Tracked P μ d d') : Still P d d' := fun hp => (h hp).1

theorem Still.unstored {d d' : Device} (h : Still P d d') : Unstored P d d' := fun hp => (h hp).bytes

theorem still_readStable : ReadStable (Still P) where
  tick n now _ d' _ h hp := (h hp).trans (steady_tickDevice n now d')
  read _ d' _ h hp := (h hp).trans (steady_onRead d')
  reset _ d' h hp := (h hp).trans (steady_onReset d')

theorem tracked_tick (μ : Device → Mode) : TickStable (Tracked P μ) := by
  intro n now d d' _ h hp
  obtain ⟨hsteady, hmode⟩ := h hp
  exact ⟨hsteady.trans (steady_tickDevice n now d'), (tickDevice_mode n now d').trans hmode⟩

theorem via_still (h : s.env.remote = some m) : Via (Still P) m s.env :=
  (Via.of_remote h).mono fun d d' hd _ => by rw [hd]; exact .refl d

theorem via_tracked (h : s.env.remote = some m) : Via (Tracked P Device.mode) m s.env :=
  (Via.of_remote h).mono fun d d' hd _ => by rw [hd]; exact ⟨.refl d, rfl⟩

/-! ## Bits that store nothing -/

/-- The device is steady so far, the bits to come store nothing in it, and lead to `ν`. -/
def OnPath (P : Device → Prop) (ν : Device → Mode) (bs : List Bool) (d d' : Device) : Prop :=
  P d → Steady d d' ∧ QuietPath d.rom d'.mode bs ∧ modeWrites d.rom d'.mode bs = ν d

theorem onPath_tick (ν : Device → Mode) (bs : List Bool) : TickStable (OnPath P ν bs) := by
  intro n now d d' _ h hp
  obtain ⟨hsteady, hquiet, hmode⟩ := h hp
  rw [tickDevice_mode]
  exact ⟨hsteady.trans (steady_tickDevice n now d'), hquiet, hmode⟩

theorem onPath_step {ν : Device → Mode} (b : Bool) (bs : List Bool) (now : Nat) (d d' : Device) (hrom : d'.rom = d.rom)
    (h : OnPath P ν (b :: bs) d d') : OnPath P ν bs d (onWrite now b d') := by
  intro hp
  obtain ⟨hsteady, ⟨hquiet, hrest⟩, hmode⟩ := h hp
  rw [onWrite_mode, hrom]
  exact ⟨hsteady.trans (steady_onWrite now hquiet), hrest, hmode⟩

theorem OnPath.tracked {ν : Device → Mode} {d d' : Device} (h : OnPath P ν [] d d') : Tracked P ν d d' := fun hp => by
  obtain ⟨hsteady, _, hmode⟩ := h hp
  exact ⟨hsteady, hmode⟩

theorem leads_writeBits_path {ν : Device → Mode} {bs : List Bool} (hs : Open (OnPath P ν bs) m s) :
    Leads (Tracked P ν) (Still P) m (writeBits bs s) :=
  Leads.weaken (leads_writeBits (OnPath P ν) (fun _ _ _ h hp => (h hp).1) (onPath_tick ν) onPath_step bs s hs)
    (fun _ _ => OnPath.tracked) fun _ _ => id

/-- Write slots of bits that store nothing in the devices of `P`. -/
theorem leads_writeBits_quiet {μ : Device → Mode} {bs : List Bool} (hs : Open (Tracked P μ) m s)
    (hq : ∀ d, P d → QuietPath d.rom (μ d) bs) :
    Leads (Tracked P fun d => modeWrites d.rom (μ d) bs) (Still P) m (writeBits bs s) := by
  obtain ⟨hd, hz⟩ := hs
  refine leads_writeBits_path ⟨hd, hz.mono fun d d' h hp => ?_⟩
  obtain ⟨hsteady, hmode⟩ := h hp
  rw [hmode]
  exact ⟨hsteady, hq d hp, rfl⟩

/-! ## Commands -/

/-- A device that was selected, or that is idle. -/
def Attentive (μ : Mode) : Prop := μ = .function 0 0 ∨ μ = .idle

theorem attentive_path {μ : Mode} (h : Attentive μ) (rom : Address) {c : Byte} (hc : c ≠ Config.cmdConvertT) :
    QuietPath rom μ (bitsOf c) := by
  rcases h with rfl | rfl
  · exact (function_byte rom c).1 hc
  · exact quietPath_idle rom _

/-- A command byte stores nothing in a device that was just selected. -/
theorem leads_command {μ : Device → Mode} (c : Byte) (hs : Open (Tracked P μ) m s)
    (hμ : ∀ d, P d → Attentive (μ d)) : Leads (Unstored P) (Unstored P) m (writeByte c s) := by
  have hbits : bitsOf c = (List.range 7).map c.getLsbD ++ [c.getLsbD 7] := bitsOf_eq_append (k := 7) (by decide) c
  rw [writeByte, hbits, writeBits_append]
  have hquiet (d : Device) (hp : P d) :
      QuietPath d.rom (μ d) ((List.range 7).map c.getLsbD) ∧
        ∀ j, modeWrites d.rom (μ d) ((List.range 7).map c.getLsbD) ≠ .recvSp j := by
    rcases hμ d hp with h | h <;> rw [h]
    · obtain ⟨hpath, acc, hmode⟩ := quietPath_function d.rom ((List.range 7).map c.getLsbD) 0 0 (by simp)
      exact ⟨hpath, by rw [hmode]; exact nofun⟩
    · exact ⟨quietPath_idle _ _, by rw [modeWrites_idle]; exact nofun⟩
  refine (Leads.weaken (leads_writeBits_quiet hs fun d hp => (hquiet d hp).1) (fun _ _ => id)
    fun _ _ => Still.unstored).andThen fun _ t ⟨hd, ht⟩ => ?_
  have hlast : Slotwise t (.write (c.getLsbD 7))
      (Tracked P fun d => modeWrites d.rom (μ d) ((List.range 7).map c.getLsbD)) (Unstored P) := by
    refine ⟨tracked_tick _, fun now d d' _ h hp => ?_, .inl hd⟩
    obtain ⟨hsteady, hmode⟩ := h hp
    refine hsteady.sameBytes (sameBytes_onWrite now _ fun j => ?_)
    rw [hmode]
    exact (hquiet d hp).2 j
  exact (Leads.weaken (leads_writeBit hlast ht) (fun _ _ => id) fun _ _ h => (Tracked.still h).unstored).andThen
    fun _ _ h => h

/-- A command byte that is not the convert command starts nothing either, and has its mode entered. -/
theorem leads_command_quiet {μ : Device → Mode} {c : Byte} (hc : c ≠ Config.cmdConvertT)
    (hs : Open (Tracked P μ) m s) (hμ : ∀ d, P d → Attentive (μ d)) :
    Leads (Tracked P fun d => modeWrites d.rom (μ d) (bitsOf c)) (Still P) m (writeByte c s) :=
  leads_writeBits_quiet hs fun d hp => attentive_path (hμ d hp) d.rom hc

/-! ## Transactions -/

/-- The mode of a device after a selection. -/
def selectedMode (t : Target) (d : Device) : Mode := modeWrites d.rom (.romCommand 0 0) t.bits

theorem selectedMode_attentive (t : Target) (d : Device) : Attentive (selectedMode t d) := by
  obtain ⟨_, hsel, hidle⟩ := selection_path d.rom t
  by_cases h : t.selects d.rom
  · exact .inl (hsel h)
  · exact .inr (hidle h)

theorem leads_select (t : Target) (hs : Open (Tracked P fun _ => .romCommand 0 0) m s) :
    Leads (Tracked P (selectedMode t)) (Still P) m (select t s) := by
  rw [select_eq_writeBits]
  exact leads_writeBits_quiet hs fun d _ => (selection_path d.rom t).1

/-- A reset slot and a selection. -/
theorem leads_resetSelect (t : Target) (hs : Via (Still P) m s.env) :
    Leads (Tracked P (selectedMode t)) (Still P) m ((busReset s).andThen fun _ => select t) := by
  refine (Leads.weaken (leads_busReset still_readStable.tick still_readStable.reset hs) (fun d d' h hp => ?_)
    fun _ _ => id).andThen fun _ u => leads_select t
  obtain ⟨hsteady, hmode⟩ := h
  exact ⟨hsteady hp, hmode⟩

theorem sendCommand_eq (t : Target) (c : Byte) (s : State) :
    sendCommand t c s = ((busReset s).andThen fun _ => select t).andThen fun _ => writeByte c := by
  rw [sendCommand]
  cases busReset s <;> rfl

theorem leads_sendCommand (t : Target) (c : Byte) (hs : Via (Still P) m s.env) :
    Leads (Unstored P) (Unstored P) m (sendCommand t c s) := by
  rw [sendCommand_eq]
  exact (Leads.weaken (leads_resetSelect t hs) (fun _ _ => id) fun _ _ => Still.unstored).andThen
    fun _ u hu => leads_command c hu fun d _ => selectedMode_attentive t d

theorem leads_sendCommand_quiet (t : Target) {c : Byte} (hc : c ≠ Config.cmdConvertT) (hs : Via (Still P) m s.env) :
    Leads (Tracked P fun d => modeWrites d.rom (selectedMode t d) (bitsOf c)) (Still P) m (sendCommand t c s) := by
  rw [sendCommand_eq]
  exact (leads_resetSelect t hs).andThen fun _ u hu => leads_command_quiet hc hu fun d _ => selectedMode_attentive t d

theorem keeps_checkFamily {Z : Device → Device → Prop} (a : Address) (hs : Via Z m s.env) :
    Keeps Z m (checkFamily a s) := by
  unfold checkFamily
  split <;> exact hs

theorem keeps_checkCrc {Z : Device → Device → Prop} (bytes : List Byte) (hs : Via Z m s.env) :
    Keeps Z m (checkCrc bytes s) := by
  unfold checkCrc
  split <;> exact hs

theorem keeps_readScratchpad (a : Address) (hs : Via (Still P) m s.env) : Keeps (Still P) m (readScratchpad a s) := by
  refine (keeps_checkFamily a hs).andThen fun _ t ht => ?_
  refine (leads_sendCommand_quiet (.device a) (by decide) ht).andThen fun _ u hu => ?_
  refine (keeps_readBytes still_readStable 9 u (hu.2.mono fun _ _ => Tracked.still)).andThen fun sp v hv => ?_
  exact (keeps_checkCrc sp hv).andThen fun _ _ hw => hw

theorem keeps_getResolution (a : Address) (hs : Via (Still P) m s.env) : Keeps (Still P) m (getResolution a s) := by
  refine (keeps_readScratchpad a hs).andThen fun sp t ht => ?_
  split <;> exact ht

theorem keeps_readTemp (a : Address) (r : Resolution) (hs : Via (Still P) m s.env) :
    Keeps (Still P) m (readTemp a r s) := (keeps_readScratchpad a hs).andThen fun _ _ ht => ht

theorem keeps_startMeasurement (t : Target) (hs : Via (Still P) m s.env) :
    Keeps (Unstored P) m (startMeasurement t s) := by
  cases t with
  | skip => exact Leads.keeps (leads_sendCommand .skip _ hs)
  | device a =>
    exact ((keeps_checkFamily a hs).mono (fun _ => id) fun _ h => h.mono fun _ _ => Still.unstored).andThen
      fun _ u hu => Leads.keeps (leads_sendCommand (.device a) _ hu)

/-! ## A search -/

/-- What every read and write slot keeps of a device. -/
structure SlotStable (Z : Device → Device → Prop) : Prop where
  tick  : TickStable Z
  read  : ∀ d d', d'.rom = d.rom → Z d d' → Z d (onRead d')
  write : ∀ now b d d', d'.rom = d.rom → Z d d' → Z d (onWrite now b d')

/-- The modes of a search pass, and no mode at all: no slot stores anything. -/
def Passive (μ : Mode) : Prop := μ = .idle ∨ ∃ i p, μ = .searching i p

/-- The device is steady so far, and in a mode of a search pass. -/
def Searched (P : Device → Prop) (d d' : Device) : Prop := P d → Steady d d' ∧ Passive d'.mode

theorem passive_onRead {d : Device} (h : Passive d.mode) : Passive (onRead d).mode := by
  obtain ⟨rom, sp, mode, conv, temps⟩ := d
  rcases h with rfl | ⟨i, _ | _ | _, rfl⟩
  · exact .inl rfl
  all_goals exact .inr ⟨_, _, rfl⟩

theorem passive_modeWrite {μ : Mode} (h : Passive μ) (rom : Address) (b : Bool) : Passive (modeWrite rom μ b) := by
  rcases h with rfl | ⟨i, _ | _ | _, rfl⟩
  · exact .inl rfl
  · exact .inr ⟨_, _, rfl⟩
  · exact .inr ⟨_, _, rfl⟩
  · simp only [modeWrite, onWrite]
    split
    · exact .inr ⟨_, _, rfl⟩
    · exact .inl rfl

theorem Passive.quiet {μ : Mode} (h : Passive μ) (b : Bool) : Quiet μ b := by
  rcases h with rfl | ⟨i, p, rfl⟩ <;> exact ⟨nofun, nofun⟩

theorem searched_slotStable : SlotStable (Searched P) where
  tick n now d d' _ h hp := by
    obtain ⟨hsteady, hmode⟩ := h hp
    exact ⟨hsteady.trans (steady_tickDevice n now d'), by rwa [tickDevice_mode]⟩
  read d d' _ h hp := by
    obtain ⟨hsteady, hmode⟩ := h hp
    exact ⟨hsteady.trans (steady_onRead d'), passive_onRead hmode⟩
  write now b d d' _ h hp := by
    obtain ⟨hsteady, hmode⟩ := h hp
    refine ⟨hsteady.trans (steady_onWrite now (hmode.quiet b)), ?_⟩
    rw [onWrite_mode]
    exact passive_modeWrite hmode _ b

section
variable {Z : Device → Device → Prop} (hZ : SlotStable Z)
include hZ

theorem SlotStable.leads_readBit (hs : Open Z m s) : Leads Z Z m (readBit s) :=
  Machine.leads_readBit (fun _ => ⟨hZ.tick, fun _ => hZ.read, .inl hs.1⟩) hs.2

theorem SlotStable.leads_writeBit (b : Bool) (hs : Open Z m s) : Leads Z Z m (writeBit b s) :=
  Machine.leads_writeBit ⟨hZ.tick, fun now => hZ.write now b, .inl hs.1⟩ hs.2

theorem SlotStable.leads_writeBits (bs : List Bool) (hs : Open Z m s) : Leads Z Z m (writeBits bs s) :=
  Machine.leads_writeBits (fun _ => Z) (fun _ _ _ => id) (fun _ => hZ.tick) (fun b _ now => hZ.write now b) bs s hs

theorem SlotStable.leads_searchWalk (n : Nat) :
    ∀ (lastZero : Nat) (s : State), Open Z m s → Leads Z Z m (searchWalk n lastZero s) := by
  induction n with
  | zero => exact fun _ _ hs => hs
  | succ n ih =>
    intro lastZero s hs
    refine (hZ.leads_readBit hs).andThen fun a t ht => (hZ.leads_readBit ht).andThen fun b u hu => ?_
    cases hdec : decideBit u.search (64 - n) lastZero a b with
    | none => exact hu
    | some x =>
      obtain ⟨dir, c, z⟩ := x
      exact (hZ.leads_writeBit (s := setSearch (recordDir c (64 - n) dir) u) dir hu).andThen fun _ => ih z

end

theorem leads_searchEnd {Z : Device → Device → Prop} (walked : Option Nat) (hs : Open Z m s) :
    Leads Z Z m (searchEnd walked s) := by
  cases walked with
  | none => exact hs
  | some z =>
    simp only [searchEnd]
    split
    · exact hs.2
    · exact hs

theorem keeps_searchExit {α : Type} {Z : Device → Device → Prop} {x : Result α} (hx : Keeps Z m x) :
    Keeps Z m (searchExit x) := by
  cases x with
  | ok a t => exact hx
  | raised e t =>
    rw [searchExit]
    split <;> exact hx

/-- The search command and the walk, the devices of `P` waiting for a ROM command or idle. -/
theorem keeps_searchPass {μ : Device → Mode} (hs : Open (Tracked P μ) m s)
    (hμ : ∀ d, P d → μ d = .romCommand 0 0 ∨ μ d = .idle) : Keeps (Still P) m (searchPass s) := by
  have hpath (d : Device) (hp : P d) : QuietPath d.rom (μ d) (bitsOf Config.cmdSearchRom) ∧
      Passive (modeWrites d.rom (μ d) (bitsOf Config.cmdSearchRom)) := by
    rcases hμ d hp with h | h <;> rw [h]
    · obtain ⟨hquiet, hmode⟩ := romCommand_byte d.rom Config.cmdSearchRom
      exact ⟨hquiet, .inr ⟨0, .probe, hmode⟩⟩
    · exact ⟨quietPath_idle _ _, .inl (modeWrites_idle _ _)⟩
  have hcommand : Leads (Searched P) (Still P) m (writeByte Config.cmdSearchRom s) := by
    refine Leads.weaken (leads_writeBits_quiet hs fun d hp => (hpath d hp).1) (fun d d' h hp => ?_) fun _ _ => id
    obtain ⟨hsteady, hmode⟩ := h hp
    exact ⟨hsteady, by rw [hmode]; exact (hpath d hp).2⟩
  have hsearched (d d' : Device) (h : Searched P d d') : Still P d d' := fun hp => (h hp).1
  refine hcommand.andThen fun _ t ht => Leads.keeps (Leads.weaken ?_ hsearched hsearched)
  exact (searched_slotStable.leads_searchWalk 64 0 t ht).andThen fun walked _ => leads_searchEnd walked

/-- A search keeps the bytes of every device. -/
theorem keeps_search (hs : Via (Still P) m s.env) : Keeps (Still P) m (search s) := by
  rw [search]
  split
  · exact hs
  · refine keeps_searchExit
      ((leads_busReset still_readStable.tick still_readStable.reset hs).andThen fun _ t ⟨hd, ht⟩ => ?_)
    refine keeps_searchPass (μ := fun _ => .romCommand 0 0) ⟨hd, ht.mono fun d d' h hp => ?_⟩ fun _ _ => .inl rfl
    obtain ⟨hsteady, hmode⟩ := h
    exact ⟨hsteady hp, hmode⟩

/-! ## Whole operations -/

theorem keeps_unstored {α : Type} {x : Result α} (hx : Keeps (Still P) m x) : Keeps (Unstored P) m x :=
  hx.mono (fun _ h => h.mono fun _ _ => Still.unstored) fun _ h => h.mono fun _ _ => Still.unstored

/-- The devices after a whole operation are those its steps leave. -/
theorem via_of_operate {α : Type} {mk : α → Response} {op : State → Result α} {i : Instr} {t : State}
    {Z : Device → Device → Prop} (hexec : exec i s = operate mk op s) (ht : exec i s = .next t)
    (hop : Keeps Z m (op (accept s))) : Via Z m t.env := by
  rw [hexec, operate] at ht
  cases ht
  rw [finish_env]
  exact Ends.final (P := fun u => Via Z m u.env) hop

/-- An operation that stores nothing keeps every scratchpad byte. -/
theorem via_storesNothing {i : Instr} {t : State} (hi : storesNothing i = true) (hr : s.env.remote = some m)
    (ht : exec i s = .next t) : Via (Unstored fun _ => True) m t.env := by
  have hs : Via (Still fun _ => True) m (accept s).env := via_still hr
  cases i with
  | writeBit | writeByte | writeScratchpad | setResolution | measure | cmdMatchRom | cmdSkipRom | cmdSearchRom
  | cmdConvertT | cmdReadScratchpad | cmdWriteScratchpad | cmdCopyScratchpad | cmdRecallE2 => exact nomatch hi
  | reset =>
    have hreset := leads_busReset (still_readStable (P := fun _ => True)).tick still_readStable.reset hs
    exact via_of_operate rfl ht (keeps_unstored (Leads.keeps (hreset.weaken (fun _ _ h => h.1) fun _ _ => id)))
  | readBit => exact via_of_operate rfl ht (keeps_unstored (keeps_readBit still_readStable hs))
  | readByte => exact via_of_operate rfl ht (keeps_unstored (keeps_readBits still_readStable 8 0 0 _ hs))
  | sendCommandSkip c => exact via_of_operate rfl ht (Leads.keeps (leads_sendCommand .skip c hs))
  | sendCommandMatch a c => exact via_of_operate rfl ht (Leads.keeps (leads_sendCommand (.device a) c hs))
  | search => exact via_of_operate rfl ht (keeps_unstored (keeps_search hs))
  | searchReset =>
    exact via_of_operate (op := fun s => .ok () (searchReset s)) rfl ht (hs.mono fun _ _ => Still.unstored)
  | crcCheckAddr a => exact via_of_operate rfl ht (keeps_unstored (keeps_checkCrc (addressBytes a) hs))
  | readScratchpad a => exact via_of_operate rfl ht (keeps_unstored (keeps_readScratchpad a hs))
  | getResolution a => exact via_of_operate rfl ht (keeps_unstored (keeps_getResolution a hs))
  | startMeasurementSkip => exact via_of_operate rfl ht (keeps_startMeasurement .skip hs)
  | startMeasurementMatch a => exact via_of_operate rfl ht (keeps_startMeasurement (.device a) hs)
  | readTemp a r => exact via_of_operate rfl ht (keeps_unstored (keeps_readTemp a r hs))

/-- A wire piece but the write stores nothing in a device that is idle or in the mode that expects it. -/
theorem via_piece {i : Instr} {t : State} {μ : Mode} (hi : pieceMode i = some μ)
    (hw : ∀ th tl cfg, i ≠ .cmdWriteScratchpad th tl cfg) (hr : s.env.remote = some m)
    (hd : s.pin.drive = .released) (ht : exec i s = .next t) :
    Via (Unstored fun d => d.mode = .idle ∨ d.mode = μ) m t.env := by
  have hs : Open (Tracked (fun d => d.mode = .idle ∨ d.mode = μ) Device.mode) m (accept s) := ⟨hd, via_tracked hr⟩
  have selection (tgt : Target) (hμ : μ = .romCommand 0 0) :
      Keeps (Still fun d => d.mode = .idle ∨ d.mode = μ) m (select tgt (accept s)) := by
    rw [select_eq_writeBits]
    refine Leads.keeps (Leads.weaken (leads_writeBits_quiet hs fun d hp => ?_) (fun _ _ => Tracked.still) fun _ _ => id)
    rcases hp with h | h <;> rw [h]
    · exact quietPath_idle _ _
    · rw [hμ]
      exact (selection_path d.rom tgt).1
  have command (c : Byte) (hμ : μ = .function 0 0) :
      Keeps (Unstored fun d => d.mode = .idle ∨ d.mode = μ) m (writeByte c (accept s)) :=
    Leads.keeps (leads_command c hs fun d hp => hp.symm.imp (fun h => h.trans hμ) id)
  cases i with
  | reset | writeBit | readBit | writeByte | readByte | sendCommandSkip | sendCommandMatch | search | searchReset
  | crcCheckAddr | readScratchpad | writeScratchpad | getResolution | setResolution | startMeasurementSkip
  | startMeasurementMatch | readTemp | measure => exact nomatch hi
  | cmdWriteScratchpad th tl cfg => exact absurd rfl (hw th tl cfg)
  | cmdMatchRom a => exact via_of_operate rfl ht (keeps_unstored (selection (.device a) (Option.some.inj hi).symm))
  | cmdSkipRom => exact via_of_operate rfl ht (keeps_unstored (selection .skip (Option.some.inj hi).symm))
  | cmdSearchRom =>
    refine via_of_operate (op := fun s => searchExit (searchPass s)) rfl ht
      (keeps_unstored (keeps_searchExit (keeps_searchPass hs fun d hp => ?_)))
    exact hp.symm.imp (fun h => h.trans (Option.some.inj hi).symm) id
  | cmdConvertT => exact via_of_operate rfl ht (command _ (Option.some.inj hi).symm)
  | cmdCopyScratchpad => exact via_of_operate rfl ht (command _ (Option.some.inj hi).symm)
  | cmdRecallE2 => exact via_of_operate rfl ht (command _ (Option.some.inj hi).symm)
  | cmdReadScratchpad =>
    have hread : Leads (Still fun d => d.mode = .idle ∨ d.mode = μ) (Still fun d => d.mode = .idle ∨ d.mode = μ) m
        (writeByte Config.cmdReadScratchpad (accept s)) := by
      refine Leads.weaken (leads_command_quiet (by decide) hs fun d hp => ?_) (fun _ _ => Tracked.still) fun _ _ => id
      exact hp.symm.imp (fun h => h.trans (Option.some.inj hi).symm) id
    exact via_of_operate rfl ht (keeps_unstored (hread.andThen fun _ u hu => keeps_readBytes still_readStable 9 u hu.2))

/-- The devices that are idle, and only they, are of `P`. -/
theorem idle_slotStable : SlotStable (Tracked (fun d => d.mode = .idle) fun _ => .idle) where
  tick := tracked_tick _
  read d d' _ h hp := by
    obtain ⟨hsteady, hmode⟩ := h hp
    exact ⟨hsteady.trans (steady_onRead d'), by simp [onRead, hmode]⟩
  write now b d d' _ h hp := by
    obtain ⟨hsteady, hmode⟩ := h hp
    refine ⟨hsteady.trans (steady_onWrite now ?_), by rw [onWrite_mode, hmode]; rfl⟩
    rw [hmode]
    exact ⟨nofun, nofun⟩

/-- A keyed operation on an Address of another family leaves the environment alone. -/
theorem keyed_env_of_otherFamily {i : Instr} {a : Address} {t : State} (hi : Keyed a i)
    (ha : (byteAt a 0 == Config.familyCode) = false) (ht : exec i s = .next t) : t.env = s.env := by
  have ha' : byteAt a 0 ≠ 0x28 := by simpa [Config.familyCode] using ha
  cases hi with
  | readScratchpad => cases ht; rw [readScratchpad_otherFamily ha', finish_env]; rfl
  | writeScratchpad th tl cfg => cases ht; rw [writeScratchpad_otherFamily ha', finish_env]; rfl
  | getResolution => cases ht; rw [getResolution_otherFamily ha', finish_env]; rfl
  | setResolution r => cases ht; rw [setResolution_otherFamily ha', finish_env]; rfl
  | startMeasurement => cases ht; rw [startMeasurement_otherFamily ha', finish_env]; rfl
  | readTemp r => cases ht; rw [readTemp_otherFamily ha', finish_env]; rfl
  | measure r =>
    rw [exec_measure_of_raised (startMeasurement_otherFamily ha' _)] at ht
    cases ht; rw [startMeasurement_otherFamily ha', finish_env]; rfl

/-- An operation without a reset slot stores nothing in an idle device. -/
theorem via_raw {i : Instr} {t : State} (hi : startsWithReset s.search i = false) (hr : s.env.remote = some m)
    (hd : s.pin.drive = .released) (ht : exec i s = .next t) :
    Via (Unstored fun d => d.mode = .idle) m t.env := by
  have hs : Open (Tracked (fun d => d.mode = .idle) fun _ => .idle) m (accept s) :=
    ⟨hd, (via_tracked hr).mono fun d d' h hp => ⟨(h hp).1, (h hp).2.trans hp⟩⟩
  have hstill : Via (Still fun d => d.mode = .idle) m (accept s).env := via_still hr
  have track {α : Type} {x : Result α} (hx : Leads (Tracked (fun d => d.mode = .idle) fun _ => .idle)
      (Tracked (fun d => d.mode = .idle) fun _ => .idle) m x) : Keeps (Unstored fun d => d.mode = .idle) m x :=
    keeps_unstored (Leads.keeps (hx.weaken (fun _ _ => Tracked.still) fun _ _ => Tracked.still))
  have silent (h : t.env = s.env) : Via (Unstored fun d => d.mode = .idle) m t.env :=
    (Via.mono (hstill : Via _ m s.env) fun _ _ => Still.unstored).congr (congrArg Env.remote h)
  have piece {μ : Mode} (hp : pieceMode i = some μ) (hw : ∀ th tl cfg, i ≠ .cmdWriteScratchpad th tl cfg) :
      Via (Unstored fun d => d.mode = .idle) m t.env :=
    (via_piece hp hw hr hd ht).mono fun d d' h hidle => h (.inl hidle)
  cases i with
  | reset | sendCommandSkip | sendCommandMatch | startMeasurementSkip => exact nomatch hi
  | writeBit b => exact via_of_operate rfl ht (track (idle_slotStable.leads_writeBit b hs))
  | writeByte v => exact via_of_operate rfl ht (track (idle_slotStable.leads_writeBits (bitsOf v) hs))
  | readBit => exact via_of_operate rfl ht (keeps_unstored (keeps_readBit still_readStable hstill))
  | readByte => exact via_of_operate rfl ht (keeps_unstored (keeps_readBits still_readStable 8 0 0 _ hstill))
  | search => exact via_of_operate rfl ht (keeps_unstored (keeps_search hstill))
  | searchReset =>
    exact via_of_operate (op := fun s => .ok () (searchReset s)) rfl ht
      (hstill.mono fun _ _ => Still.unstored)
  | crcCheckAddr a => exact via_of_operate rfl ht (keeps_unstored (keeps_checkCrc (addressBytes a) hstill))
  | readScratchpad a => exact silent (keyed_env_of_otherFamily .readScratchpad hi ht)
  | writeScratchpad a th tl cfg => exact silent (keyed_env_of_otherFamily (.writeScratchpad th tl cfg) hi ht)
  | getResolution a => exact silent (keyed_env_of_otherFamily .getResolution hi ht)
  | setResolution a r => exact silent (keyed_env_of_otherFamily (.setResolution r) hi ht)
  | startMeasurementMatch a => exact silent (keyed_env_of_otherFamily .startMeasurement hi ht)
  | readTemp a r => exact silent (keyed_env_of_otherFamily (.readTemp r) hi ht)
  | measure a r => exact silent (keyed_env_of_otherFamily (.measure r) hi ht)
  | cmdWriteScratchpad th tl cfg =>
    refine via_of_operate rfl ht (track ?_)
    refine (idle_slotStable.leads_writeBits (bitsOf Config.cmdWriteScratchpad) hs).andThen fun _ u hu => ?_
    rw [writeBits_flatMap]
    exact idle_slotStable.leads_writeBits _ hu
  | cmdMatchRom | cmdSkipRom | cmdSearchRom | cmdConvertT | cmdReadScratchpad | cmdCopyScratchpad | cmdRecallE2 =>
    exact piece rfl nofun

end Sys2Proof.Machine

namespace Sys2Proof

open Machine

/-- Settles O58: every slot of such an operation is a reset slot, a read slot, or a bit that stores nothing
(`via_storesNothing`). -/
theorem nonStoringOperationsKeepScratchpads : Obligations.NonStoringOperationsKeepScratchpads :=
  fun _ _ _ _ hi hr ht => ((via_storesNothing hi hr ht).mono fun _ _ h => h trivial).bytesKept_of_sameBytes

/-- Settles O59: an idle device follows no bit (`via_raw`), and over a wire piece but the write a device that expects it
goes through modes that store nothing (`via_piece`). -/
theorem rawOperationsKeepDeafScratchpads : Obligations.RawOperationsKeepDeafScratchpads := by
  refine fun i s t m hr hd ht => ⟨fun hi => (via_raw hi hr hd ht).bytesKept fun a d d' hfind h k hex hk => ?_,
    fun μ hi hw => (via_piece hi hw hr hd ht).bytesKept fun a d d' hfind h k hex hk => ?_⟩
  · refine h ?_ k hk
    by_contra hidle
    exact hex ⟨d, hfind, hidle⟩
  · refine h ?_ k hk
    by_contra hmode
    rw [not_or] at hmode
    exact hex ⟨d, hfind, hmode⟩

end Sys2Proof
end

section
/-! The CRC-8 function: linearity, its bit-serial and table forms, the residue test, and single-bit errors
(`42_crc8.md`). -/

namespace Sys2Proof.Machine

/-! ## One shift (R140, R145) -/

theorem crcShift_eq (x : Byte) : crcShift x = x >>> 1 ^^^ if x.getLsbD 0 then Config.crcPoly else 0 := by
  unfold crcShift
  split <;> simp

theorem crcShift_xor (x y : Byte) : crcShift (x ^^^ y) = crcShift x ^^^ crcShift y := by
  have hpoly (a b : Bool) : (if a ^^ b then Config.crcPoly else 0) =
      (if a then Config.crcPoly else 0) ^^^ if b then Config.crcPoly else 0 := by
    cases a <;> cases b <;> rfl
  rw [crcShift_eq, crcShift_eq, crcShift_eq, BitVec.getLsbD_xor, hpoly, BitVec.ushiftRight_xor_distrib]
  ac_rfl

theorem crcShifts_xor (n : Nat) (x y : Byte) : crcShifts n (x ^^^ y) = crcShifts n x ^^^ crcShifts n y := by
  induction n generalizing x y with
  | zero => rfl
  | succ n ih => rw [crcShifts, crcShift_xor, ih, crcShifts, crcShifts]

theorem crcShift_eq_zero_iff (x : Byte) : crcShift x = 0 ↔ x = 0 := by revert x; decide +kernel

theorem crcShifts_eq_zero_iff (n : Nat) (x : Byte) : crcShifts n x = 0 ↔ x = 0 := by
  induction n generalizing x with
  | zero => rfl
  | succ n ih => rw [crcShifts, ih, crcShift_eq_zero_iff]

/-! ## Linearity (R145) -/

theorem crcByte_xor (c c' b b' : Byte) : crcByte (c ^^^ c') (b ^^^ b') = crcByte c b ^^^ crcByte c' b' := by
  rw [crcByte, crcByte, crcByte, ← crcShifts_xor]
  congr 1
  ac_rfl

theorem foldl_crcByte_xor (xs ys : List Byte) (h : xs.length = ys.length) (c c' : Byte) :
    (List.zipWith (· ^^^ ·) xs ys).foldl crcByte (c ^^^ c') = xs.foldl crcByte c ^^^ ys.foldl crcByte c' := by
  induction xs generalizing ys c c' with
  | nil =>
    obtain rfl := List.length_eq_zero_iff.mp h.symm
    rfl
  | cons x xs ih =>
    cases ys with
    | nil => exact nomatch h
    | cons y ys =>
      rw [List.zipWith_cons_cons, List.foldl_cons, crcByte_xor, ih ys (by simpa using h), List.foldl_cons,
        List.foldl_cons]

theorem crc8_xor (xs ys : List Byte) (h : xs.length = ys.length) :
    crc8 (List.zipWith (· ^^^ ·) xs ys) = crc8 xs ^^^ crc8 ys := foldl_crcByte_xor xs ys h 0 0

/-! ## The bit-serial and the table form (R141) -/

/-- One shift takes in the lowest bit, and moves the others on. -/
theorem crcShift_crcBit (c b : Byte) : crcShift (c ^^^ b) = crcBit c (b.getLsbD 0) ^^^ b >>> 1 := by
  rw [crcShift, crcBit, BitVec.getLsbD_xor, BitVec.ushiftRight_xor_distrib]
  split <;> ac_rfl

theorem crcShifts_crcBit (n : Nat) (c b : Byte) :
    crcShifts n (c ^^^ b) = ((List.range n).map b.getLsbD).foldl crcBit c ^^^ b >>> n := by
  induction n generalizing c b with
  | zero => rfl
  | succ n ih =>
    have hbits : (List.range n).map (b >>> 1).getLsbD = (List.range n).map (b.getLsbD ∘ Nat.succ) :=
      List.map_congr_left fun i _ => by simp [Nat.add_comm 1 i]
    rw [crcShifts, crcShift_crcBit, ih, hbits, List.range_succ_eq_map, List.map_cons, List.map_map, List.foldl_cons,
      ← BitVec.shiftRight_add, Nat.add_comm 1 n]

theorem crcByte_eq_foldl_crcBit (c b : Byte) : crcByte c b = (bitsOf b).foldl crcBit c := by
  have hzero : b >>> 8 = 0#8 := BitVec.ushiftRight_eq_zero (Nat.le_refl 8)
  rw [crcByte, crcShifts_crcBit, hzero, BitVec.xor_zero, bitsOf]

theorem foldl_crcByte_eq_foldl_crcBit (bytes : List Byte) (c : Byte) :
    bytes.foldl crcByte c = (bytes.flatMap bitsOf).foldl crcBit c := by
  induction bytes generalizing c with
  | nil => rfl
  | cons b bytes ih =>
    rw [List.foldl_cons, ih, crcByte_eq_foldl_crcBit, List.flatMap_cons, List.foldl_append]

/-- Each further byte is one more step of the accumulator. -/
theorem crc8_concat (bytes : List Byte) (b : Byte) : crc8 (bytes ++ [b]) = crcByte (crc8 bytes) b := by
  rw [crc8, crc8, List.foldl_append, List.foldl_cons, List.foldl_nil]

theorem crcTable_eq (i : Byte) : crcTable i = crcShifts 8 i := by
  rw [crcTable, crc8, List.foldl_cons, List.foldl_nil, crcByte]
  exact congrArg (crcShifts 8) BitVec.zero_xor

/-! ## The residue (R142) -/

theorem crc8_concat_eq_zero_iff (bytes : List Byte) (c : Byte) : crc8 (bytes ++ [c]) = 0 ↔ crc8 bytes = c := by
  rw [crc8_concat, crcByte, crcShifts_eq_zero_iff]
  exact BitVec.xor_eq_zero_iff

theorem crcOk_bytesOf_iff {w : Nat} (n : Nat) (x : BitVec w) :
    crcOk (bytesOf (n + 1) x) = true ↔ crc8 (bytesOf (n + 1) x) = 0 := by
  rw [bytesOf_succ, crcOk_concat, beq_iff_eq, crc8_concat_eq_zero_iff]

/-! ## Single-bit errors (R144) -/

theorem bytesOf_xor {w : Nat} (n : Nat) (x y : BitVec w) :
    bytesOf n (x ^^^ y) = List.zipWith (· ^^^ ·) (bytesOf n x) (bytesOf n y) := by
  have hbyte (k : Nat) : byteAt (x ^^^ y) k = byteAt x k ^^^ byteAt y k :=
    BitVec.eq_of_getLsbD_eq fun i hi => by
      simp only [getLsbD_byteAt, BitVec.getLsbD_xor, hi, decide_true, Bool.true_and]
  simp only [bytesOf, List.zipWith_map, List.zipWith_self]
  exact List.map_congr_left fun k _ => hbyte k

/-- An error makes the check fail if the bytes of the error do. -/
theorem checkCrc_xor {w n : Nat} {x err : BitVec w} (hx : crcOk (bytesOf (n + 1) x) = true)
    (herr : crc8 (bytesOf (n + 1) err) ≠ 0) (s : State) :
    checkCrc (bytesOf (n + 1) (x ^^^ err)) s = .raised .crcMismatch s := by
  refine if_neg fun hok => herr ?_
  rw [crcOk_bytesOf_iff] at hx hok
  rw [bytesOf_xor, crc8_xor _ _ (by simp [bytesOf]), hx] at hok
  exact BitVec.zero_xor.symm.trans hok

end Sys2Proof.Machine

namespace Sys2Proof

open Machine

/-- Settles O38: a byte taken in by eight shifts is its eight bits taken in one by one (`crcShifts_crcBit`). -/
theorem crcBitSerialAndTableForms : Obligations.CrcBitSerialAndTableForms := by
  refine ⟨fun bytes => foldl_crcByte_eq_foldl_crcBit bytes _, fun bytes b => ?_, by decide +kernel⟩
  rw [crc8_concat, crcTable_eq, crcByte]

/-- Settles O39: the accumulator is linear in itself and the byte (`crcByte_xor`). -/
theorem crcIsLinear : Obligations.CrcIsLinear := ⟨rfl, crc8_xor⟩

/-- Settles O40: no shift takes a nonzero accumulator to 0 (`crcShift_eq_zero_iff`). -/
theorem checkCrcComparesTheTrailingByte : Obligations.CheckCrcComparesTheTrailingByte :=
  fun bytes c s => ⟨checkCrc_concat bytes c s, (crc8_concat_eq_zero_iff bytes c).symm⟩

/-- Settles O41: by linearity the error alone decides (`checkCrc_xor`), and no single bit has checksum 0. -/
theorem crcDetectsSingleBitErrors : Obligations.CrcDetectsSingleBitErrors := by
  have haddr : ∀ i < 64, crc8 (bytesOf (7 + 1) (BitVec.twoPow 64 i)) ≠ 0 := by decide +kernel
  have hsp : ∀ i < 72, crc8 (bytesOf (8 + 1) (BitVec.twoPow 72 i)) ≠ 0 := by decide +kernel
  exact ⟨fun a i s hi ha => checkCrc_xor ha (haddr i hi) s, fun sp i s hi hok => checkCrc_xor hok (hsp i hi) s⟩

end Sys2Proof
end

section
/-! Whole transactions on a line that becomes idle with a device present and no fault: a reset slot and the slots after
it (`30_encoding.md` R86), their pin events and the state they leave. -/

namespace Sys2Proof.Machine

/-! ## Write and read slots in a row -/

/-- Some slots, none of them a reset slot. -/
structure Transfers (xs : List Slot) : Prop where
  some    : xs ≠ []
  noReset : ∀ b, Slot.reset b ∉ xs

theorem Transfers.append {xs ys : List Slot} (h : Transfers xs) (g : Transfers ys) : Transfers (xs ++ ys) :=
  ⟨by simp [h.some], fun b => by simp [h.noReset b, g.noReset b]⟩

theorem transfers_w8 (v : Byte) : Transfers (w8 v) :=
  ⟨List.ne_nil_of_length_pos (by simp), fun b => by simp [w8]⟩

theorem transfers_w8s {vs : List Byte} (h : vs ≠ []) : Transfers (vs.flatMap w8) := by
  refine ⟨fun hnil => ?_, fun b => by simp [w8]⟩
  obtain ⟨v, hv⟩ := List.exists_mem_of_ne_nil vs h
  exact (transfers_w8 v).some (List.flatMap_eq_nil_iff.mp hnil v hv)

theorem transfers_r8s {vs : List Byte} (h : vs ≠ []) : Transfers (vs.flatMap r8) := by
  refine ⟨fun hnil => ?_, fun b => by simp [r8]⟩
  obtain ⟨v, hv⟩ := List.exists_mem_of_ne_nil vs h
  exact List.ne_nil_of_length_pos (l := r8 v) (by simp) (List.flatMap_eq_nil_iff.mp hnil v hv)

theorem transfers_match (a : Address) : Transfers (matchSlots a) :=
  (transfers_w8 _).append (transfers_w8s (List.ne_nil_of_length_pos (by simp)))

theorem transfers_target : ∀ t : Target, Transfers t.slots
  | .skip => transfers_w8 _
  | .device a => transfers_match a

/-- The pin after write and read slots. -/
theorem afterSlots_pin {xs : List Slot} (h : Transfers xs) (s : State) :
    (afterSlots s xs).pin = ⟨.released, false, s.pin.trace ++ slotEvents s xs, s.pin.slots ++ xs⟩ := by
  obtain ⟨ys, x, rfl⟩ := (List.eq_nil_or_concat xs).resolve_left h.some
  obtain ⟨-, -, -, hparams, -, htrace, hslots, -⟩ := afterSlots_spec ys s
  rw [List.concat_eq_append, afterSlots_append, afterSlots_cons, afterSlots_nil]
  cases x with
  | reset b => exact absurd (by simp) (h.noReset b)
  | write b => simp [afterSlot, htrace, hslots, hparams]
  | read b => simp [afterSlot, htrace, hslots, hparams]

/-! ## Transactions -/

/-- The state after a poll of `p` `Low` samples, a reset slot and these slots. -/
def afterTransaction (s : State) (p : Nat) (xs : List Slot) : State :=
  afterSlots (afterSlot (afterPoll s p) (.reset true)) xs

theorem afterTransaction_pin {xs : List Slot} (h : Transfers xs) (s : State) (p : Nat) :
    (afterTransaction s p xs).pin =
      ⟨.released, false, s.pin.trace ++ (pollEvents s.params.timing p ++ slotEvents s (.reset true :: xs)),
        s.pin.slots ++ .reset true :: xs⟩ := by
  obtain ⟨-, -, -, hpoll, -⟩ := afterPoll_spec s p
  have hparams : (afterSlot (afterPoll s p) (.reset true)).params = s.params := hpoll
  rw [afterTransaction, afterSlots_pin h, afterPoll_reset_pin, slotEvents, slotEvents, hparams]
  simp

theorem afterTransaction_faultAt (s : State) (p : Nat) (xs : List Slot) (k : Nat) :
    (afterTransaction s p xs).env.faultAt k = s.env.faultAt (p + 4 + ((xs.map slotPrimitives).sum + k)) := by
  rw [afterTransaction, afterSlots_faultAt, afterPoll_reset_faultAt]

theorem sendCommand_transaction {s : State} {p n : Nat} (t : Target) (c : Byte) (h : LineReady s p n)
    (hn : t.primitives + 20 ≤ n) : sendCommand t c s = .ok () (afterTransaction s p (t.slots ++ w8 c)) :=
  sendCommand_ready t c h hn

/-- The primitives of a transaction up to its command byte. -/
theorem command_unfaulted {s : State} {p n k : Nat} {t : Target} (c : Byte) (h : LineReady s p n)
    (hn : t.primitives + 20 + k ≤ n) : (afterTransaction s p (t.slots ++ w8 c)).env.Unfaulted k := by
  obtain ⟨-, -, hu⟩ := h
  intro i hi
  rw [afterTransaction_faultAt, List.map_append, List.sum_append, slotPrimitives_target, slotPrimitives_w8]
  exact hu _ (by omega)

theorem afterTransaction_append (s : State) (p : Nat) (xs ys : List Slot) :
    afterTransaction s p (xs ++ ys) = afterSlots (afterTransaction s p xs) ys := afterSlots_append _ xs ys

/-- An operation on the line completes with the response its result makes, whichever way it ends. -/
theorem completes_of_final {α : Type} {mk : α → Response} {op : State → Result α} {i : Instr} {s : State}
    {x : Result α} {r : Response} {events : List Event} {slots : List Slot} (hexec : exec i s = operate mk op s)
    (hline : ∀ s, LineOnly s (op s).final) (hop : op (accept s) = x) (hr : x.response mk = r)
    (hpin : x.final.pin = ⟨.released, false, events, slots⟩) : ∃ t, Completes i s t r events slots := by
  cases x with
  | ok a u => exact completes_of_ok hexec hline hop hr hpin
  | raised e u =>
    have hparams : u.params = s.params := by simpa [hop] using (hline (accept s)).params
    have hcrit : u.pin.crit = false := congrArg Pin.crit hpin
    rw [← hr, Result.response, hparams]
    exact fails_of_raised hexec hline hop ((deliverError_pin_of_not_crit e hcrit).trans hpin)

/-! ## Nine bytes read (`30_encoding.md` R75) -/

theorem getLsbD_packBytes_cons (v : Byte) (vs : List Byte) (i : Nat) : (packBytes (v :: vs)).getLsbD i =
    if i < 8 then v.getLsbD i else decide (i < 72) && (packBytes vs).getLsbD (i - 8) := by
  have hcons : packBytes (v :: vs) = packBytes vs <<< 8 ||| v.setWidth 72 := rfl
  rw [hcons, BitVec.getLsbD_or, BitVec.getLsbD_shiftLeft, BitVec.getLsbD_setWidth]
  by_cases h8 : i < 8
  · have h72 : i < 72 := by omega
    simp [h8, h72]
  · simp [h8, BitVec.getLsbD_of_ge v i (Nat.le_of_not_lt h8)]

theorem byteAt_packBytes (vs : List Byte) :
    ∀ k, k < vs.length → vs.length ≤ 9 → byteAt (packBytes vs) k = vs.getD k 0 := by
  induction vs with
  | nil => exact fun k hk => absurd hk (Nat.not_lt_zero k)
  | cons v vs ih =>
    intro k hk hle
    refine BitVec.eq_of_getLsbD_eq fun i hi => ?_
    rw [getLsbD_byteAt, getLsbD_packBytes_cons]
    simp only [hi, decide_true, Bool.true_and]
    cases k with
    | zero => simp [hi]
    | succ k =>
      simp only [List.length_cons] at hk hle
      have h8 : ¬ 8 * (k + 1) + i < 8 := by omega
      have h72 : 8 * (k + 1) + i < 72 := by omega
      have hbyte := congrArg (fun b => b.getLsbD i) (ih k (by omega) (by omega))
      simp only [getLsbD_byteAt, hi, decide_true, Bool.true_and] at hbyte
      rw [if_neg h8, show 8 * (k + 1) + i - 8 = 8 * k + i by omega, hbyte]
      simp [h72]

/-- Nine bytes are those of the scratchpad that they pack into. -/
theorem bytesOf_packBytes {vs : List Byte} (h : vs.length = 9) : bytesOf 9 (packBytes vs) = vs := by
  refine List.ext_getElem (by simp [bytesOf, h]) fun k hk hk' => ?_
  simp only [bytesOf, List.getElem_map, List.getElem_range]
  rw [byteAt_packBytes vs k hk' (by omega), List.getD_eq_getElem _ _ hk']

theorem packBytes_bytesOf (sp : Scratchpad) : packBytes (bytesOf 9 sp) = sp := by
  refine BitVec.eq_of_getLsbD_eq fun i hi => ?_
  have hbyte := byteAt_packBytes (bytesOf 9 sp) (i / 8) (by simp [bytesOf]; omega) (by simp [bytesOf])
  have hbit := congrArg (fun b => b.getLsbD (i % 8)) hbyte
  have hk : i / 8 < 9 := by omega
  have hlt : i % 8 < 8 := by omega
  have hget : (bytesOf 9 sp).getD (i / 8) 0 = byteAt sp (i / 8) := by simp [bytesOf, hk]
  simpa only [hget, getLsbD_byteAt, hlt, decide_true, Bool.true_and, Nat.div_add_mod] using hbit

/-- The samples that bytes read in a row are of. -/
theorem readBytes_sampled (n : Nat) : ∀ {s t : State} {vs : List Byte}, s.env.remote = none → s.env.Unfaulted (24 * n) →
    readBytes n s = .ok vs t → BytesSampled s.env 0 vs := by
  induction n with
  | zero =>
    intro s t vs _ _ h
    cases h
    exact fun j k hj => absurd hj (Nat.not_lt_zero j)
  | succ n ih =>
    intro s t vs hr hu h
    have hu24 : s.env.Unfaulted 24 := fun k hk => hu k (by omega)
    obtain ⟨v, hv⟩ := readByte_unfaulted hu24
    have hfree := afterSlots_freeAfter (slotPrimitives_r8 v) hr
    have hfirst := readByte_sampled hr hu24 hv
    rw [readBytes, hv, andThen_ok, andThen_eq_ok] at h
    obtain ⟨ws, u, hws, h⟩ := h
    obtain ⟨rfl, -⟩ := Result.ok.inj h
    have hrest := ih hfree.remote' (hfree.unfaulted fun k hk => hu k (by omega)) hws
    intro j k hj hk
    cases j with
    | zero => exact hfirst 0 k (by simp) hk
    | succ j =>
      have hbit := hrest j k (by simpa using hj) hk
      rw [hfree.levelAt] at hbit
      rw [List.getD_cons_succ, hbit]
      congr 2
      omega

/-- Nine bytes read, not faulted. -/
theorem readScratchpad_unfaulted {s : State} (hu : s.env.Unfaulted 216) :
    ∃ sp : Scratchpad, readBytes 9 s = .ok (bytesOf 9 sp) (afterSlots s ((bytesOf 9 sp).flatMap r8)) ∧
      (s.env.remote = none → BytesSampled s.env 0 (bytesOf 9 sp)) := by
  obtain ⟨vs, hlen, h⟩ := readBytes_unfaulted 9 hu
  refine ⟨packBytes vs, ?_⟩
  rw [bytesOf_packBytes hlen]
  exact ⟨h, fun hr => readBytes_sampled 9 hr hu h⟩

theorem BytesSampled.shift {e e' : Env} {n : Nat} {vs : List Byte} (h : BytesSampled e' 0 vs) (hf : e.FreeAfter n e') :
    BytesSampled e n vs := by
  intro j k hj hk
  rw [h j k hj hk, hf.levelAt]
  congr 2
  omega

/-! ## The driver's transactions -/

theorem afterTransaction_freeAfter {s : State} {p n : Nat} {xs : List Slot} (hr : s.env.remote = none)
    (hn : p + 4 + (xs.map slotPrimitives).sum = n) : s.env.FreeAfter n (afterTransaction s p xs).env := by
  have hpoll := afterPoll_freeAfter hr p
  have hslots := afterSlots_freeAfter (xs := .reset true :: xs) rfl hpoll.remote'
  have hboth := hpoll.trans hslots
  have hsum : p + 1 + (3 + (xs.map slotPrimitives).sum) = n := by omega
  rw [List.map_cons, List.sum_cons, slotPrimitives, hsum] at hboth
  exact hboth

/-- The slots of a read of the scratchpad after the reset slot. -/
def readTail (a : Address) (sp : Scratchpad) : List Slot :=
  matchSlots a ++ w8 Config.cmdReadScratchpad ++ (bytesOf 9 sp).flatMap r8

theorem transfers_readTail (a : Address) (sp : Scratchpad) : Transfers (readTail a sp) :=
  ((transfers_match a).append (transfers_w8 _)).append (transfers_r8s (List.ne_nil_of_length_pos (by simp [bytesOf])))

theorem slotPrimitives_readTail (a : Address) (sp : Scratchpad) : ((readTail a sp).map slotPrimitives).sum = 376 := by
  rw [readTail, List.map_append, List.sum_append, List.map_append, List.sum_append, slotPrimitives_matchSlots,
    slotPrimitives_w8, slotPrimitives_r8s]
  simp [bytesOf]

theorem readSlots_eq (a : Address) (sp : Scratchpad) : readSlots a (bytesOf 9 sp) = .reset true :: readTail a sp := rfl

/-- What READ_SCRATCHPAD makes of the nine bytes. -/
def checked (sp : Scratchpad) (t : State) : Result (List Byte) :=
  if crc8 (bytesOf 8 sp) = byteAt sp 8 then .ok (bytesOf 9 sp) t else .raised .crcMismatch t

/-- READ_SCRATCHPAD on a line that becomes idle with a device present and no fault, by the nine bytes it reads. -/
theorem readScratchpad_of_read {s u : State} {p n : Nat} {a : Address} {sp : Scratchpad} (ha : byteAt a 0 = 0x28)
    (h : LineReady s p n) (hn : 164 ≤ n)
    (hread : readBytes 9 (afterTransaction s p (matchSlots a ++ w8 Config.cmdReadScratchpad)) = .ok (bytesOf 9 sp) u) :
    readScratchpad a s = checked sp u := by
  rw [readScratchpad, checkFamily_ownFamily ha, andThen_ok, sendCommand_transaction (.device a) _ h hn, andThen_ok,
    Target.slots, hread, andThen_ok, bytesOf_succ, checkCrc_concat, ← bytesOf_succ, checked]
  split <;> rfl

/-- READ_SCRATCHPAD on a line that becomes idle with a device present and no fault. -/
theorem readScratchpad_ready {s : State} {p n : Nat} {a : Address} (ha : byteAt a 0 = 0x28) (h : LineReady s p n)
    (hn : 380 ≤ n) : ∃ sp : Scratchpad, readScratchpad a s = checked sp (afterTransaction s p (readTail a sp)) ∧
      (s.env.remote = none → BytesSampled s.env (p + 164) (bytesOf 9 sp)) := by
  have hu : (afterTransaction s p (matchSlots a ++ w8 Config.cmdReadScratchpad)).env.Unfaulted 216 :=
    command_unfaulted (t := .device a) _ h (by simp only [Target.primitives]; omega)
  obtain ⟨sp, hread, hsampled⟩ := readScratchpad_unfaulted hu
  rw [← afterTransaction_append] at hread
  refine ⟨sp, readScratchpad_of_read ha h (by omega) hread, fun hr => ?_⟩
  have hfree : s.env.FreeAfter (p + 164)
      (afterTransaction s p (matchSlots a ++ w8 Config.cmdReadScratchpad)).env := by
    refine afterTransaction_freeAfter hr ?_
    rw [List.map_append, List.sum_append, slotPrimitives_matchSlots, slotPrimitives_w8]
  exact BytesSampled.shift (hsampled hfree.remote') hfree

/-- The slots of a write of the scratchpad after the reset slot. -/
def writeTail (a : Address) (th tl cfg : Byte) : List Slot :=
  matchSlots a ++ w8 Config.cmdWriteScratchpad ++ (w8 th ++ w8 tl ++ w8 cfg)

theorem transfers_writeTail (a : Address) (th tl cfg : Byte) : Transfers (writeTail a th tl cfg) :=
  ((transfers_match a).append (transfers_w8 _)).append
    (((transfers_w8 _).append (transfers_w8 _)).append (transfers_w8 _))

theorem flatMap_w8_three (th tl cfg : Byte) : [th, tl, cfg].flatMap w8 = w8 th ++ w8 tl ++ w8 cfg := by
  simp [List.flatMap_cons]

/-- WRITE_SCRATCHPAD on a line that becomes idle with a device present and no fault. -/
theorem writeScratchpad_ready {s : State} {p n : Nat} {a : Address} (ha : byteAt a 0 = 0x28) (th tl cfg : Byte)
    (h : LineReady s p n) (hn : 212 ≤ n) :
    writeScratchpad a th tl cfg s = .ok () (afterTransaction s p (writeTail a th tl cfg)) := by
  have hu : (afterTransaction s p (matchSlots a ++ w8 Config.cmdWriteScratchpad)).env.Unfaulted 48 :=
    command_unfaulted (t := .device a) _ h (by simp only [Target.primitives]; omega)
  rw [writeScratchpad, checkFamily_ownFamily ha, andThen_ok,
    sendCommand_transaction (.device a) _ h (by simp only [Target.primitives]; omega), andThen_ok, Target.slots,
    writeBytes_unfaulted [th, tl, cfg] (by simpa using hu), flatMap_w8_three, ← afterTransaction_append, writeTail]

/-- START_MEASUREMENT on a line that becomes idle with a device present and no fault. -/
theorem startMeasurement_ready {s : State} {p n : Nat} {t : Target} (ht : ∀ a, t = .device a → byteAt a 0 = 0x28)
    (h : LineReady s p n) (hn : t.primitives + 20 ≤ n) :
    startMeasurement t s = .ok () (afterTransaction s p (t.slots ++ w8 Config.cmdConvertT)) := by
  cases t with
  | skip => exact sendCommand_transaction .skip _ h hn
  | device a =>
    simp only [startMeasurement, checkFamily_ownFamily (ht a rfl), andThen_ok]
    exact sendCommand_transaction (.device a) _ h hn

end Sys2Proof.Machine

namespace Sys2Proof

open Machine

/-- Settles O27. -/
theorem sendCommandSlots : Obligations.SendCommandSlots := by
  have hcompletes (s : State) (p n : Nat) (tgt : Target) (c : Byte) {i : Instr}
      (hexec : exec i s = operate (fun _ => .done) (sendCommand tgt c) s) (h : LineReady s p n)
      (hn : tgt.primitives + 20 ≤ n) : ∃ t, Completes i s t ⟨.ok, 0, 0, 0⟩
        (pollEvents s.params.timing p ++ slotEvents s t.pin.slots) t.pin.slots ∧
        t.pin.slots = .reset true :: (tgt.slots ++ w8 c) := by
    obtain ⟨t, hrun, hport, hpin, hkept⟩ := completes_of_ok hexec (lineOnly_sendCommand tgt c)
      (sendCommand_transaction (s := accept s) tgt c h hn) rfl
      (afterTransaction_pin ((transfers_target tgt).append (transfers_w8 c)) _ _)
    have hslots : t.pin.slots = .reset true :: (tgt.slots ++ w8 c) := by rw [hpin]; rfl
    exact ⟨t, ⟨hrun, hport, by rw [hslots]; exact hpin, hkept⟩, hslots⟩
  intro s p c
  refine ⟨fun h => hcompletes s p 36 .skip c rfl h (Nat.le_refl 36), fun a h => ?_⟩
  obtain ⟨t, hc, hslots⟩ := hcompletes s p 164 (.device a) c (i := .sendCommandMatch a c) rfl h (Nat.le_refl 164)
  refine ⟨t, hc, hslots.trans ?_⟩
  rw [Target.slots, matchSlots, addressBytes, bytesOf, List.flatMap_map]
  rfl

/-- Settles O45. -/
theorem writeScratchpadSlots : Obligations.WriteScratchpadSlots := fun _ _ a th tl cfg ha h =>
  completes_of_ok rfl (lineOnly_writeScratchpad a th tl cfg) (writeScratchpad_ready ha th tl cfg h (Nat.le_refl 212))
    rfl (afterTransaction_pin (transfers_writeTail a th tl cfg) _ _)

end Sys2Proof
end

section
/-! The driver's operations on the wire: their transactions, one or two, their responses and their durations
(`43_ds18b20.md`, `40_signaling.md` R111). -/

namespace Sys2Proof.Machine

/-! ## Lines that answer alike -/

/-- As far as the poll, presence and pin faults go, the environment answers `t` as it answers `s`. -/
structure Alike (s t : State) : Prop where
  drive   : t.pin.drive = s.pin.drive
  params  : t.params = s.params
  script  : t.env.script = s.env.script
  asked   : t.env.asked = s.env.asked
  devices : t.env.remote.map List.isEmpty = s.env.remote.map List.isEmpty

namespace Alike
variable {s t : State} (h : Alike s t)
include h

theorem faultAt (k : Nat) : t.env.faultAt k = s.env.faultAt k :=
  faultAt_congr h.script h.asked (by simpa using congrArg Option.isSome h.devices) k

theorem levelAt {kind : SampleKind} (hk : kind ≠ .read) (k : Nat) (dr : Drive) :
    t.env.levelAt k dr kind = s.env.levelAt k dr kind := levelAt_congr h.script h.asked h.devices hk k dr

theorem unfaulted {n : Nat} (hu : s.env.Unfaulted n) : t.env.Unfaulted n :=
  fun k hk => (h.faultAt k).trans (hu k hk)

theorem lineIdle {p : Nat} (hi : LineIdle s p) : LineIdle t p := by
  obtain ⟨hp, hlow, hhigh⟩ := hi
  rw [LineIdle, h.params, h.drive]
  exact ⟨hp, fun k hk => (h.levelAt (by decide) k _).trans (hlow k hk), (h.levelAt (by decide) p _).trans hhigh⟩

theorem lineReady {p n : Nat} (hr : LineReady s p n) : LineReady t p n := by
  obtain ⟨hi, hpresent, hu⟩ := hr
  exact ⟨h.lineIdle hi, (h.levelAt (by decide) _ _).trans hpresent, h.unfaulted hu⟩

end Alike

theorem afterSlots_consumed (xs : List Slot) (s : State) :
    (afterSlots s xs).env.script = s.env.script.drop (xs.map slotPrimitives).sum ∧
      (afterSlots s xs).env.asked = s.env.asked + (xs.map slotPrimitives).sum := by
  induction xs generalizing s with
  | nil => exact ⟨rfl, rfl⟩
  | cons x xs ih =>
    obtain ⟨hscript, hasked⟩ := ih (afterSlot s x)
    simp [hscript, hasked, Nat.add_assoc]

theorem afterTransaction_consumed (s : State) (p : Nat) (xs : List Slot) :
    (afterTransaction s p xs).env.script = s.env.script.drop (p + 4 + (xs.map slotPrimitives).sum) ∧
      (afterTransaction s p xs).env.asked = s.env.asked + (p + 4 + (xs.map slotPrimitives).sum) := by
  obtain ⟨-, -, -, -, -, -, hscript, hasked, -⟩ := afterLowPolls_spec p s
  obtain ⟨hscript', hasked'⟩ := afterSlots_consumed (.reset true :: xs) (afterPoll s p)
  have hpolled : (afterPoll s p).env.script = s.env.script.drop (p + 1) ∧
      (afterPoll s p).env.asked = s.env.asked + (p + 1) := by
    simp [afterPoll, takeAnswer, Env.answered, hscript, hasked, Nat.add_assoc]
  have hsum : ((Slot.reset true :: xs).map slotPrimitives).sum = 3 + (xs.map slotPrimitives).sum := by
    simp [slotPrimitives]
  rw [hsum, hpolled.1, List.drop_drop] at hscript'
  rw [hsum, hpolled.2] at hasked'
  exact ⟨hscript'.trans (by congr 1; omega), hasked'.trans (by omega)⟩

theorem LineOnly.devices {s t : State} (h : LineOnly s t) :
    t.env.remote.map List.isEmpty = s.env.remote.map List.isEmpty := by
  have hroms := congrArg (Option.map List.isEmpty) h.roms
  simpa [attached, Function.comp_def] using hroms

/-- A second transaction starts from the state the first one leaves as from `State.later`. -/
theorem alike_later {s : State} {p n : Nat} {xs : List Slot} (hx : Transfers xs)
    (hn : p + 4 + (xs.map slotPrimitives).sum = n) (hline : LineOnly s (afterTransaction s p xs)) :
    Alike (s.later n) (afterTransaction s p xs) := by
  obtain ⟨hscript, hasked⟩ := afterTransaction_consumed s p xs
  rw [hn] at hscript hasked
  have hpin := afterTransaction_pin hx s p
  exact ⟨by rw [hpin], hline.params, hscript, hasked, hline.devices⟩

theorem alike_endWait (w : Suspended) (s : State) : Alike s (endWait w s) where
  drive   := rfl
  params  := rfl
  script  := rfl
  asked   := rfl
  devices := (lineOnly_elapse w.res.convMs
    { s with port := { s.port with waitReq := false, suspended := none } }).devices

/-! ## What the nine bytes make -/

theorem checked_final (sp : Scratchpad) (t : State) : (checked sp t).final = t := by
  unfold checked
  split <;> rfl

/-- The operation that goes on with the nine bytes, or ends in `CrcMismatch`. -/
theorem checked_andThen {α : Type} (sp : Scratchpad) (t : State) (f : List Byte → State → Result α) :
    (checked sp t).andThen f =
      if crc8 (bytesOf 8 sp) = byteAt sp 8 then f (bytesOf 9 sp) t else .raised .crcMismatch t := by
  unfold checked
  split <;> rfl

theorem bytesOf_getD {k : Nat} (sp : Scratchpad) (hk : k < 9) : (bytesOf 9 sp).getD k 0 = byteAt sp k := by
  simp [bytesOf, hk]

/-- What READ_TEMP makes of the nine bytes. -/
theorem decodeTemp_bytesOf (p : Params) (sp : Scratchpad) (r : Resolution) :
    decodeTemp p (bytesOf 9 sp) r = decodeTemp p [byteAt sp 0, byteAt sp 1] r := by
  rw [decodeTemp, decodeTemp, bytesOf_getD sp (by decide), bytesOf_getD sp (by decide)]
  rfl

theorem readTemp_ready {s t : State} {a : Address} {sp : Scratchpad} (h : readScratchpad a s = checked sp t)
    (r : Resolution) : readTemp a r s = if crc8 (bytesOf 8 sp) = byteAt sp 8
      then .ok (decodeTemp t.params [byteAt sp 0, byteAt sp 1] r) t else .raised .crcMismatch t := by
  rw [readTemp, h, checked_andThen, decodeTemp_bytesOf]

theorem getResolution_ready {s t : State} {a : Address} {sp : Scratchpad} (h : readScratchpad a s = checked sp t) :
    getResolution a s = if crc8 (bytesOf 8 sp) = byteAt sp 8 then
      match Resolution.ofCfg (byteAt sp 4) with
      | some r => .ok r t
      | none => .raised .unexpectedResponse t
    else .raised .crcMismatch t := by
  rw [getResolution, h, checked_andThen, bytesOf_getD sp (by decide)] <;> rfl

theorem setResolution_ready {s t : State} {a : Address} {sp : Scratchpad} (h : readScratchpad a s = checked sp t)
    (r : Resolution) : setResolution a r s = if crc8 (bytesOf 8 sp) = byteAt sp 8
      then writeScratchpad a (byteAt sp 2) (byteAt sp 3) r.cfg t else .raised .crcMismatch t := by
  rw [setResolution, h, checked_andThen, bytesOf_getD sp (by decide), bytesOf_getD sp (by decide)]

/-! ## The reading operations -/

section
variable {s u : State} {a : Address} {sp : Scratchpad} {events : List Event} {slots : List Slot}

theorem readScratchpad_completes (h : readScratchpad a (accept s) = checked sp u)
    (hpin : u.pin = ⟨.released, false, events, slots⟩) : ∃ t, Completes (.readScratchpad a) s t
      (if crc8 (bytesOf 8 sp) = byteAt sp 8 then ⟨.ok, 0, 0, sp⟩ else ⟨.crcMismatch, 0, 0, 0⟩) events slots := by
  refine completes_of_final rfl (lineOnly_readScratchpad a) h ?_ (by rw [checked_final, hpin])
  unfold checked
  split
  · rw [Result.response, Response.ofScratchpad, packBytes_bytesOf]
  · rfl

theorem readTemp_completes (h : readScratchpad a (accept s) = checked sp u)
    (hpin : u.pin = ⟨.released, false, events, slots⟩) (r : Resolution) : ∃ t, Completes (.readTemp a r) s t
      (if crc8 (bytesOf 8 sp) = byteAt sp 8 then ⟨.ok, 0, decodeTemp s.params [byteAt sp 0, byteAt sp 1] r, 0⟩
        else ⟨.crcMismatch, 0, 0, 0⟩) events slots := by
  have hline := lineOnly_readScratchpad a (accept s)
  rw [h, checked_final] at hline
  refine completes_of_final rfl (lineOnly_readTemp a r) (readTemp_ready h r) ?_ (by split <;> exact hpin)
  rw [hline.params]
  split <;> rfl

end

/-! ## After the wait -/

theorem finish_pin_of_not_crit {α : Type} (mk : α → Response) {x : Result α} (h : x.final.pin.crit = false) :
    (finish mk x).pin = x.final.pin := by
  cases x with
  | ok a t => rfl
  | raised e t => exact deliverError_pin_of_not_crit e h

/-- The step that ends a wait answers what READ_TEMP makes, in the traces of the operation. -/
theorem resumeMeasure_answers {w : Suspended} {s : State} {x : Result Int} {r : Response} {pin : Pin}
    (hx : readTemp w.addr w.res (endWait w s) = x) (hr : x.response .ofTemp = r) (hpin : x.final.pin = pin)
    (hcrit : pin.crit = false) :
    Kept s (resumeMeasure w s) ∧ AnswersWait r s (resumeMeasure w s) ∧ (resumeMeasure w s).pin = pin := by
  have hline := lineOnly_readTemp w.addr w.res (endWait w s)
  refine ⟨resumeMeasure_kept w s, ?_, ?_⟩
  · rw [AnswersWait, resumeMeasure, finish_port, hline.port, hx, hr]
    rfl
  · rw [resumeMeasure, hx, finish_pin_of_not_crit _ (by rw [hpin, hcrit]), hpin]

/-! ## The write piece -/

theorem writeScratchpadPiece_unfaulted {s : State} (th tl cfg : Byte) (hu : s.env.Unfaulted 64) :
    writeScratchpadPiece th tl cfg s =
      .ok () (afterSlots s (w8 Config.cmdWriteScratchpad ++ (w8 th ++ w8 tl ++ w8 cfg))) := by
  have hu48 : (afterSlots s (w8 Config.cmdWriteScratchpad)).env.Unfaulted 48 := fun k hk => by
    rw [afterSlots_faultAt, slotPrimitives_w8]
    exact hu _ (by omega)
  rw [writeScratchpadPiece, writeByte_unfaulted _ (fun k hk => hu k (by omega)), andThen_ok,
    writeBytes_unfaulted _ (by simpa using hu48), flatMap_w8_three, ← afterSlots_append]

/-! ## Nominal durations (`40_signaling.md` R111) -/

/-- The nominal microseconds of slots, with the document's figures. -/
def slotsUs (slots : List Slot) : Nat := nominalUs (slots.flatMap (Slot.events Timing.documented))

theorem slotsUs_append (xs ys : List Slot) : slotsUs (xs ++ ys) = slotsUs xs + slotsUs ys := by
  rw [slotsUs, List.flatMap_append, nominalUs_append, slotsUs, slotsUs]

theorem slotsUs_reset (p : Bool) (xs : List Slot) : slotsUs (.reset p :: xs) = 960 + slotsUs xs := by
  have hreset : slotsUs [.reset p] = 960 := by
    simp [slotsUs, nominalUs, Slot.events, Event.nominalUs, Timing.documented]
  rw [← hreset, ← slotsUs_append, List.singleton_append]

theorem slotsUs_w8 (v : Byte) : slotsUs (w8 v) = 520 + 5 * zeroBits v := by
  rw [slotsUs, w8, nominalUs_write_slots, bitsOf_length, zeroBits]

theorem slotsUs_r8 (v : Byte) : slotsUs (r8 v) = 440 := by
  rw [slotsUs, r8, nominalUs_read_slots, bitsOf_length]

theorem slotsUs_w8s (vs : List Byte) : slotsUs (vs.flatMap w8) = (vs.map fun v => 520 + 5 * zeroBits v).sum := by
  induction vs with
  | nil => rfl
  | cons v vs ih => rw [List.flatMap_cons, slotsUs_append, slotsUs_w8, ih, List.map_cons, List.sum_cons]

theorem slotsUs_r8s (vs : List Byte) : slotsUs (vs.flatMap r8) = vs.length * 440 := by
  induction vs with
  | nil => rfl
  | cons v vs ih =>
    rw [List.flatMap_cons, slotsUs_append, slotsUs_r8, ih, List.length_cons]
    omega

theorem slotsUs_match (a : Address) :
    slotsUs (matchSlots a) = 540 + ((addressBytes a).map fun v => 520 + 5 * zeroBits v).sum := by
  rw [matchSlots, slotsUs_append, slotsUs_w8, slotsUs_w8s]
  rfl

/-- A triplet takes 175 or 180 µs (`41_rom_search.md` R130). -/
theorem tripletSlots_bounds (c : SearchState) (probe : Nat → Bool × Bool) (n : Nat) :
    (tripletSlots c probe n).length = 3 * n ∧ 175 * n ≤ slotsUs (tripletSlots c probe n) ∧
      slotsUs (tripletSlots c probe n) ≤ 180 * n := by
  induction n with
  | zero => exact ⟨rfl, Nat.zero_le _, Nat.zero_le _⟩
  | succ n ih =>
    obtain ⟨hlen, hlow, hhigh⟩ := ih
    have htriplet (a b dir : Bool) : slotsUs [.read a, .read b, .write dir] = if dir then 175 else 180 := by
      cases dir <;>
        simp [slotsUs, nominalUs, Slot.events, Event.nominalUs, Timing.documented, writeLow, writeIdle]
    rw [tripletSlots_succ, slotsUs_append, List.length_append, hlen, htriplet (probe n).1 (probe n).2]
    refine ⟨rfl, ?_⟩
    generalize slotsUs (tripletSlots c probe n) = us at hlow hhigh
    split <;> omega

end Sys2Proof.Machine

namespace Sys2Proof

open Machine

/-- Settles O49. -/
theorem startMeasurementSlots : Obligations.StartMeasurementSlots := by
  have hcompletes (s : State) (p n : Nat) (tgt : Target) (htgt : ∀ a, tgt = .device a → byteAt a 0 = 0x28) {i : Instr}
      (hexec : exec i s = operate (fun _ => .done) (startMeasurement tgt) s) (h : LineReady s p n)
      (hn : tgt.primitives + 20 ≤ n) : ∃ t, Completes i s t ⟨.ok, 0, 0, 0⟩
        (pollEvents s.params.timing p ++ slotEvents s t.pin.slots) t.pin.slots ∧
        t.pin.slots = .reset true :: (tgt.slots ++ w8 0x44) := by
    obtain ⟨t, hrun, hport, hpin, hkept⟩ := completes_of_ok hexec (lineOnly_startMeasurement tgt)
      (startMeasurement_ready (s := accept s) htgt h hn) rfl
      (afterTransaction_pin ((transfers_target tgt).append (transfers_w8 _)) _ _)
    have hslots : t.pin.slots = .reset true :: (tgt.slots ++ w8 0x44) := by rw [hpin]; rfl
    exact ⟨t, ⟨hrun, hport, by rw [hslots]; exact hpin, hkept⟩, hslots⟩
  intro s p
  refine ⟨fun h => hcompletes s p 36 .skip nofun rfl h (Nat.le_refl 36), fun a ha h => ?_⟩
  refine hcompletes s p 164 (.device a) (fun b hb => ?_) rfl h (Nat.le_refl 164)
  cases hb
  exact ha

/-- Settles O51: the start transaction leaves the line released, and the wait is raised. -/
theorem measureWaits : Obligations.MeasureWaits := by
  intro s p a r ha h hdone
  have hstart := startMeasurement_ready (s := accept s) (t := .device a) (fun b hb => by cases hb; exact ha) h
    (Nat.le_refl 164)
  have hslots := (transfers_target (.device a)).append (transfers_w8 Config.cmdConvertT)
  have hpin := afterTransaction_pin hslots (accept s) p
  have hline := lineOnly_startMeasurement (.device a) (accept s)
  rw [hstart, final_ok] at hline
  generalize afterTransaction (accept s) p _ = u at hstart hpin hline
  obtain ⟨e, t, hx, -⟩ | ⟨t, hx, -, hm⟩ := measure_cases ⟨a, r⟩ (accept s)
  · rw [hstart] at hx
    exact nomatch hx
  · obtain ⟨-, rfl⟩ := Result.ok.inj (hstart.symm.trans hx)
    have hnot : (accept s).host.waitDone ≠ true := by rw [accept_host, hdone]; exact Bool.false_ne_true
    rw [if_neg hnot] at hm
    refine ⟨_, congrArg Host.Outcome.next hm, hline.kept, ?_, ?_, ?_⟩
    · rw [raiseWait, emit_port, hline.port]
      rfl
    · rw [raiseWait, emit]
      simp only [hpin]
      rfl
    · rw [raiseWait, emit]
      simp only [hpin]
      rfl

/-- Settles O43: the read transaction is `readScratchpad_ready`, what its nine bytes make of each operation is
`checked_andThen`, and SET_RESOLUTION goes on from the state it leaves (`alike_later`). -/
theorem driverReadsOnTheWire : Obligations.DriverReadsOnTheWire := by
  intro s p a ha hready
  obtain ⟨sp, hread, hsampled⟩ := readScratchpad_ready (s := accept s) ha hready (Nat.le_refl 380)
  have hline := lineOnly_readScratchpad a (accept s)
  rw [hread, checked_final] at hline
  have halike := alike_later (n := p + 380) (transfers_readTail a sp) (by rw [slotPrimitives_readTail]) hline
  have hpin := afterTransaction_pin (transfers_readTail a sp) (accept s) p
  generalize afterTransaction (accept s) p (readTail a sp) = u at hread hline halike hpin
  have hparams : u.params = s.params := hline.params
  refine ⟨sp, hsampled, ?_, ?_, fun r => ?_, fun hbad r => ?_, fun hok r => ?_⟩
  · exact readScratchpad_completes hread hpin
  · refine completes_of_final rfl (lineOnly_getResolution a) (getResolution_ready hread) ?_ ?_
    · split
      · cases Resolution.ofCfg (byteAt sp 4) <;> rfl
      · rfl
    · split
      · cases Resolution.ofCfg (byteAt sp 4) <;> exact hpin
      · exact hpin
  · exact readTemp_completes hread hpin r
  · have hset := setResolution_ready hread r
    rw [if_neg hbad] at hset
    obtain ⟨t, hc⟩ := completes_of_final (i := .setResolution a r) rfl (lineOnly_setResolution a r) hset rfl hpin
    refine ⟨t, hc, fun m hm => ?_⟩
    have hkeeps := keeps_readScratchpad (P := fun _ => True) (s := accept s) a (via_still hm)
    rw [hread, checked, if_neg hbad] at hkeeps
    have hvia : Via (Unstored fun _ => True) m t.env := by
      refine via_of_operate (op := setResolution a r) rfl hc.1 ?_
      rw [hset]
      exact Via.mono hkeeps fun _ _ => Still.unstored
    exact (hvia.mono fun _ _ h => h trivial).bytesKept_of_sameBytes
  · have hset := setResolution_ready hread r
    rw [if_pos hok] at hset
    refine ⟨fun q hq => ?_, fun hlow hu => ?_, fun q hi habsent hu => ?_⟩
    · rw [writeScratchpad_ready ha _ _ _ (halike.lineReady hq) (Nat.le_refl 212)] at hset
      refine completes_of_final rfl (lineOnly_setResolution a r) hset rfl ?_
      have hevents : slotEvents u (.reset true :: writeTail a (byteAt sp 2) (byteAt sp 3) r.cfg) =
          slotEvents s (.reset true :: writeTail a (byteAt sp 2) (byteAt sp 3) r.cfg) := by
        rw [slotEvents, slotEvents, hparams]
      rw [final_ok, afterTransaction_pin (transfers_writeTail _ _ _ _), hpin, hevents, hparams]
      rfl
    · have hreset := busReset_low (s := u)
        (fun k hk => (halike.levelAt (by decide) k _).trans (by
          rw [hparams] at hk
          rw [halike.drive]
          exact hlow k hk))
        (by rw [hparams]; exact halike.unfaulted hu)
      rw [writeScratchpad_of_reset_raised ha hreset] at hset
      refine completes_of_final rfl (lineOnly_setResolution a r) hset rfl ?_
      obtain ⟨-, -, -, -, -, hpolls, -⟩ := afterLowPolls_spec u.params.timing.nPoll u
      rw [final_raised, hpolls, hpin, hparams]
      rfl
    · have hreset := busReset_idle (halike.lineIdle hi) (halike.unfaulted hu)
      have hlevel : u.env.levelAt (q + 3) .released .presence = .high := (halike.levelAt (by decide) _ _).trans habsent
      rw [hlevel, presentFlag_high, if_neg Bool.false_ne_true] at hreset
      rw [writeScratchpad_of_reset_raised ha hreset] at hset
      refine completes_of_final rfl (lineOnly_setResolution a r) hset rfl ?_
      rw [final_raised, afterPoll_reset_pin, hpin, hparams]
      simp only [accept_pin_trace, accept_pin_slots, List.nil_append, slotEvents, List.flatMap_cons, List.flatMap_nil,
        List.append_nil, List.cons_append]
      rfl

/-- Settles O14: the step is READ_TEMP from the state the wait leaves, where the line is as before it
(`alike_endWait`). -/
theorem measureReadsAfterTheWait : Obligations.MeasureReadsAfterTheWait := by
  intro s w hrst hbusy hw hdone hcrit ha
  have hstep := step_answered hrst hbusy hw hdone
  have halike := alike_endWait w s
  have hreset {e : Err} {u : State} (h : busReset (endWait w s) = .raised e u) :
      readTemp w.addr w.res (endWait w s) = .raised e u := readTemp_of_reset_raised ha h w.res
  refine ⟨fun p hready => ?_, fun hlow hu => ?_, fun p hidle habsent hu => ?_⟩
  · obtain ⟨sp, hread, hsampled⟩ := readScratchpad_ready ha (halike.lineReady hready) (Nat.le_refl 380)
    have hline := lineOnly_readScratchpad w.addr (endWait w s)
    rw [hread, checked_final] at hline
    have hpin := afterTransaction_pin (transfers_readTail w.addr sp) (endWait w s) p
    generalize afterTransaction (endWait w s) p (readTail w.addr sp) = u at hread hline hpin
    obtain ⟨hkept, hanswer, hpin⟩ := resumeMeasure_answers (readTemp_ready hread w.res) rfl
      (pin := u.pin) (by split <;> rfl) (by rw [hpin])
    refine ⟨sp, _, hstep, hkept, fun hr => ?_, ?_, ?_⟩
    · have hfree : s.env.FreeAfter 0 (endWait w s).env :=
        ⟨hr, by simp [hr], halike.script, halike.asked⟩
      exact fun j k hj hk => by
        rw [hsampled hfree.remote' j k hj hk, hfree.levelAt, Nat.zero_add]
    · rw [AnswersWait, hanswer]
      split
      · rw [Result.response, hline.params]
        rfl
      · rfl
    · rw [hpin]
      assumption
  · have hraised := busReset_low (s := endWait w s) (fun k hk => (halike.levelAt (by decide) k _).trans (hlow k hk))
      (halike.unfaulted hu)
    obtain ⟨-, -, -, -, -, hpolls, -⟩ := afterLowPolls_spec (endWait w s).params.timing.nPoll (endWait w s)
    obtain ⟨hkept, hanswer, hpin⟩ := resumeMeasure_answers (hreset hraised) rfl hpolls hcrit
    refine ⟨_, hstep, hkept, hanswer, hpin.trans ?_⟩
    rw [← hcrit]
    rfl
  · have hraised := busReset_idle (halike.lineIdle hidle) (halike.unfaulted hu)
    rw [halike.levelAt (by decide), habsent, presentFlag_high, if_neg Bool.false_ne_true] at hraised
    obtain ⟨hkept, hanswer, hpin⟩ := resumeMeasure_answers (hreset hraised) rfl (afterPoll_reset_pin _ _ _) hcrit
    refine ⟨_, hstep, hkept, hanswer, hpin.trans ?_⟩
    rw [endWait_pin, hcrit, endWait_params]
    simp [slotEvents]

/-- Settles O26. -/
theorem nominalDurations : Obligations.NominalDurations := by
  refine ⟨fun p => slotsUs_reset p [], rfl, rfl, fun _ => rfl, fun p => ?_, slotsUs_w8, slotsUs_r8, fun c => ?_,
    fun a c => ?_, fun a bytes h => ?_, fun a th tl cfg => ?_, fun c probe => ?_⟩
  · rw [pollEvents, nominalUs_append]
    induction p with
    | zero => rfl
    | succ p ih =>
      have hpoll : nominalUs [Event.sample .low, .delay Timing.documented.tPoll] = 2 := rfl
      rw [List.replicate_succ, List.flatten_cons, nominalUs_append, hpoll, Nat.add_assoc, ih]
      omega
  · change slotsUs _ = _
    rw [slotsUs_reset, slotsUs_append, slotsUs_w8, slotsUs_w8, ← Nat.add_assoc, ← Nat.add_assoc]
    rfl
  · change slotsUs _ = _
    rw [slotsUs_reset, slotsUs_append, slotsUs_match, slotsUs_w8, ← Nat.add_assoc, ← Nat.add_assoc,
      ← Nat.add_assoc]
  · have hread : zeroBits Config.cmdReadScratchpad = 2 := rfl
    change slotsUs _ = _
    rw [readSlots, slotsUs_reset, slotsUs_append, slotsUs_append, slotsUs_match, slotsUs_w8, slotsUs_r8s, h,
      hread]
    dsimp only
    omega
  · have hwrite : zeroBits Config.cmdWriteScratchpad = 4 := rfl
    change slotsUs _ = _
    rw [writeSlots, slotsUs_reset, slotsUs_append, slotsUs_append, slotsUs_append, slotsUs_append,
      slotsUs_match, slotsUs_w8, slotsUs_w8, slotsUs_w8, slotsUs_w8, hwrite]
    dsimp only
    omega
  · obtain ⟨hlen, hlow, hhigh⟩ := tripletSlots_bounds c probe 64
    have hsearch : zeroBits Config.cmdSearchRom = 4 := rfl
    have hus : slotsUs (.reset true :: (w8 Config.cmdSearchRom ++ tripletSlots c probe 64)) =
        960 + (540 + slotsUs (tripletSlots c probe 64)) := by
      rw [slotsUs_reset, slotsUs_append, slotsUs_w8, hsearch]
    refine ⟨by simp [hlen], ?_, ?_⟩
    · exact le_trans (by omega) hus.ge
    · exact le_trans hus.le (by omega)

/-- Settles O56. -/
theorem wirePieces : Obligations.WirePieces := by
  intro s
  have hbyte (c : Byte) {i : Instr} (hexec : exec i s = operate (fun _ => .done) (writeByte c) s)
      (hu : s.env.Unfaulted 16) : ∃ t, Completes i s t ⟨.ok, 0, 0, 0⟩ (slotEvents s (w8 c)) (w8 c) :=
    completes_of_ok hexec (lineOnly_writeByte c) (writeByte_unfaulted (s := accept s) c hu) rfl
      (afterSlots_pin (transfers_w8 c) _)
  have hslots {i : Instr} {r : Response} {xs : List Slot}
      (h : ∃ t, Completes i s t r (slotEvents s xs) xs) :
      ∃ t, Completes i s t r (slotEvents s t.pin.slots) t.pin.slots ∧ t.pin.slots = xs := by
    obtain ⟨t, hrun, hport, hpin, hkept⟩ := h
    have hxs : t.pin.slots = xs := by rw [hpin]
    exact ⟨t, ⟨hrun, hport, by rw [hxs]; exact hpin, hkept⟩, hxs⟩
  refine ⟨fun hu => ⟨hbyte _ rfl hu, hbyte _ rfl hu, hbyte _ rfl hu, hbyte _ rfl hu⟩, fun a hu => ?_, fun hu => ?_,
    fun th tl cfg hu => ?_⟩
  · obtain ⟨t, hc, h⟩ := hslots (completes_of_ok (i := .cmdMatchRom a) rfl (lineOnly_matchRom a)
      (matchRom_unfaulted (s := accept s) a hu) rfl (afterSlots_pin (transfers_match a) _))
    refine ⟨t, hc, h.trans ?_⟩
    rw [matchSlots, addressBytes, bytesOf, List.flatMap_map]
    rfl
  · have hu16 : (accept s).env.Unfaulted 16 := fun k hk => hu k (by omega)
    have hu216 : (afterSlots (accept s) (w8 Config.cmdReadScratchpad)).env.Unfaulted 216 := fun k hk => by
      rw [afterSlots_faultAt, slotPrimitives_w8]
      exact hu _ (by omega)
    obtain ⟨sp, hread, hsampled⟩ := readScratchpad_unfaulted hu216
    have hop : readScratchpadPiece (accept s) = .ok (bytesOf 9 sp)
        (afterSlots (accept s) (w8 Config.cmdReadScratchpad ++ (bytesOf 9 sp).flatMap r8)) := by
      rw [readScratchpadPiece, writeByte_unfaulted _ hu16, andThen_ok, hread, afterSlots_append]
    have hresponse : Response.ofScratchpad (bytesOf 9 sp) = ⟨.ok, 0, 0, sp⟩ := by
      rw [Response.ofScratchpad, packBytes_bytesOf]
    obtain ⟨t, hc, h⟩ := hslots (completes_of_ok (i := .cmdReadScratchpad) rfl lineOnly_readScratchpadPiece hop
      hresponse (afterSlots_pin
        ((transfers_w8 _).append (transfers_r8s (List.ne_nil_of_length_pos (by simp [bytesOf])))) _))
    refine ⟨sp, t, hc, h, fun hr => ?_⟩
    have hfree := afterSlots_freeAfter (slotPrimitives_w8 Config.cmdReadScratchpad) (s := accept s) hr
    exact BytesSampled.shift (hsampled hfree.remote') hfree
  · exact hslots (completes_of_ok rfl (lineOnly_writeScratchpadPiece th tl cfg)
      (writeScratchpadPiece_unfaulted (s := accept s) th tl cfg hu) rfl
      (afterSlots_pin ((transfers_w8 _).append (((transfers_w8 _).append (transfers_w8 _)).append (transfers_w8 _))) _))

end Sys2Proof
end

section
/-! A complete search pass, whatever answers the probe bits: the cursor it leaves, its slots and its result
(`41_rom_search.md` R122, R123, R127). -/

namespace Sys2Proof.Machine

/-! ## One decision (R122) -/

section
variable (c : SearchState) (probe : Nat → Bool × Bool)

/-- Position `k + 1` is a branch point taken toward 0. -/
def takesZero (k : Nat) : Bool := probe k = (false, false) && !chosenDir c probe k

theorem lastZeroOf_succ (k : Nat) :
    lastZeroOf c probe (k + 1) = if takesZero c probe k then k + 1 else lastZeroOf c probe k := by
  rw [lastZeroOf, List.range_succ, List.filter_append, List.filter_singleton]
  cases h : takesZero c probe k <;> rw [takesZero] at h <;> simp [h, lastZeroOf]

theorem lastZeroOf_le (k : Nat) : lastZeroOf c probe k ≤ k := by
  induction k with
  | zero => exact Nat.le_refl 0
  | succ k ih =>
    rw [lastZeroOf_succ]
    split
    · exact Nat.le_refl _
    · exact Nat.le_succ_of_le ih

/-- What the decision at position `k + 1` records besides the direction. -/
def afterDecision (k : Nat) (c' : SearchState) : SearchState :=
  if takesZero c probe k = true ∧ k < 8 then { c' with lastFamilyDiscrepancy := BitVec.ofNat 7 (k + 1) } else c'

variable {c probe}

theorem decideBit_eq {c' : SearchState} {k : Nat} (lastZero : Nat) (h : c.Undecided k c')
    (hp : probe k ≠ (true, true)) : decideBit c' (k + 1) lastZero (probe k).1 (probe k).2 =
      some (chosenDir c probe k, afterDecision c probe k c', if takesZero c probe k then k + 1 else lastZero) := by
  have hbranch : branchDir c' (k + 1) =
      if k + 1 < c.lastDiscrepancy.toNat then c.romNo.getLsbD k else k + 1 == c.lastDiscrepancy.toNat := by
    rw [branchDir, h.lastDiscrepancy, Nat.add_sub_cancel, h.romNo k (Nat.le_refl k)]
  rcases hpk : probe k with ⟨_ | _, _ | _⟩
  · have hdir : chosenDir c probe k = branchDir c' (k + 1) := by rw [hbranch, chosenDir, hpk]
    rw [afterDecision, takesZero, hpk, hdir, decideBit]
    cases branchDir c' (k + 1) with
    | true => simp
    | false =>
      have h9 : k + 1 < 9 ↔ k < 8 := by omega
      by_cases hk : k < 8 <;> simp [h9, hk]
  · simp [decideBit, afterDecision, takesZero, chosenDir, hpk]
  · simp [decideBit, afterDecision, takesZero, chosenDir, hpk]
  · exact absurd hpk hp

/-! ## The walk so far -/

variable (c probe)

/-- The cursor `c'` and `last_zero` after the first `k` positions of a pass from `c`. -/
structure Walked (k lastZero : Nat) (c' : SearchState) : Prop where
  taken     : ∀ i, i < k → c'.romNo.getLsbD i = chosenDir c probe i
  undecided : c.Undecided k c'
  lastZero  : lastZero = lastZeroOf c probe k
  family    : c'.lastFamilyDiscrepancy.toNat = if lastZeroOf c probe (min k 8) = 0 then c.lastFamilyDiscrepancy.toNat
    else lastZeroOf c probe (min k 8)
  flag      : c'.lastDeviceFlag = c.lastDeviceFlag

theorem walked_zero : Walked c probe 0 0 c :=
  ⟨fun _ hi => absurd hi (Nat.not_lt_zero _), ⟨rfl, fun _ _ => rfl⟩, rfl, rfl, rfl⟩

variable {c probe}

theorem Walked.step {k lastZero : Nat} {c' : SearchState} (h : Walked c probe k lastZero c') (hk : k < 64) :
    Walked c probe (k + 1) (if takesZero c probe k then k + 1 else lastZero)
      (recordDir (afterDecision c probe k c') (k + 1) (chosenDir c probe k)) := by
  obtain ⟨htaken, hundecided, hzero, hfamily, hflag⟩ := h
  have hrom : (afterDecision c probe k c').romNo = c'.romNo := by unfold afterDecision; split <;> rfl
  have hlast : (afterDecision c probe k c').lastDiscrepancy = c'.lastDiscrepancy := by
    unfold afterDecision; split <;> rfl
  have hundecided' : c.Undecided k (afterDecision c probe k c') :=
    ⟨hlast.trans hundecided.lastDiscrepancy, fun i hi => by rw [hrom]; exact hundecided.romNo i hi⟩
  refine ⟨fun i hi => ?_, hundecided'.recordDir _, ?_, ?_, ?_⟩
  · rw [recordDir, Nat.add_sub_cancel, hrom]
    by_cases hik : i = k
    · rw [hik]
      exact getLsbD_setBit_same _ _ hk
    · exact (getLsbD_setBit_ne _ _ (Ne.symm hik)).trans (htaken i (by omega))
  · rw [lastZeroOf_succ, hzero]
  · rw [recordDir, afterDecision]
    by_cases h8 : k < 8
    · rw [Nat.min_eq_left h8, lastZeroOf_succ]
      rw [Nat.min_eq_left (Nat.le_of_lt h8)] at hfamily
      by_cases hz : takesZero c probe k
      · simp [h8, hz]
        omega
      · simp [hz, hfamily]
    · rw [Nat.min_eq_right (by omega)] at hfamily ⊢
      simpa [h8] using hfamily
  · rw [← hflag, recordDir, afterDecision]
    split <;> rfl

/-- The end of a complete pass (R123). -/
theorem Walked.endOfPass {lastZero : Nat} {c' : SearchState} (h : Walked c probe 64 lastZero c') :
    PassCursor c probe (endOfPass c' lastZero) := by
  obtain ⟨htaken, -, hzero, hfamily, hflag⟩ := h
  have hle := lastZeroOf_le c probe 64
  refine ⟨htaken, ?_, hfamily, ?_⟩
  · rw [hzero, Machine.endOfPass, BitVec.toNat_ofNat]
    exact Nat.mod_eq_of_lt (by omega)
  · rw [hzero, Machine.endOfPass, hflag]

end

/-! ## The samples of the read slots -/

/-- What a read slot from `s` samples if no reset pulse ends with it. -/
def readLevel (s : State) : Level :=
  ((s.env.pass .low s.params.timing.tRdl).pass .released s.params.timing.tRds).levelAt 2 .released .read

theorem readBit_readLevel {s : State} (hd : s.pin.drive = .released) (hu : s.env.Unfaulted 3) :
    readBit s = .ok (readLevel s).toBool (afterSlot s (.read (readLevel s).toBool)) := by
  obtain ⟨l, hb, hl⟩ := readBit_unfaulted hu
  rw [hb, readLevel, hl (.inl (.inl hd))]

/-- Without reference devices the level is the coming answer's. -/
theorem readLevel_free {s : State} (hr : s.env.remote = none) : readLevel s = s.env.levelAt 2 .released .read :=
  levelAt_ext (by simp) (by simp) (by simp [hr]) _ _ _

/-- The probe bits of the next position are `a` and `b`. -/
structure Probed (s : State) (a b : Bool) : Prop where
  first  : (readLevel s).toBool = a
  second : (readLevel (afterSlot s (.read a))).toBool = b

/-! ## The walk -/

theorem unfaulted_afterSlot {s : State} {n m : Nat} {x : Slot} (hu : s.env.Unfaulted n) (h : slotPrimitives x + m ≤ n) :
    (afterSlot s x).env.Unfaulted m := fun k hk => (afterSlot_faultAt s x k).trans (hu _ (by omega))

theorem unfaulted_afterSlots {s : State} {n m : Nat} {xs : List Slot} (hu : s.env.Unfaulted n)
    (h : (xs.map slotPrimitives).sum + m ≤ n) : (afterSlots s xs).env.Unfaulted m :=
  fun k hk => (afterSlots_faultAt xs s k).trans (hu _ (by omega))

/-- One position of the walk, whoever answers. -/
theorem searchWalk_probed {s : State} {k lastZero lastZero' : Nat} {a b dir : Bool} {c : SearchState} (hk : k < 64)
    (hd : s.pin.drive = .released) (hu : s.env.Unfaulted 8) (hp : Probed s a b)
    (hdec : decideBit s.search (k + 1) lastZero a b = some (dir, c, lastZero')) :
    searchWalk (64 - k) lastZero s = searchWalk (64 - (k + 1)) lastZero'
      (setSearch (recordDir c (k + 1) dir) (afterSlots s [.read a, .read b, .write dir])) := by
  obtain ⟨n, hn⟩ : ∃ n, 64 - k = n + 1 := ⟨63 - k, by omega⟩
  have hpos : 64 - n = k + 1 := by omega
  have hrest : 64 - (k + 1) = n := by omega
  obtain ⟨h1, h2⟩ := hp
  have hu2 : (afterSlot s (.read a)).env.Unfaulted 5 := unfaulted_afterSlot hu (Nat.le_refl 8)
  have hu3 : (afterSlot (afterSlot s (.read a)) (.read b)).env.Unfaulted 2 := unfaulted_afterSlot hu2 (Nat.le_refl 5)
  rw [hn, searchWalk, readBit_readLevel hd (fun i hi => hu i (by omega)), h1, andThen_ok,
    readBit_readLevel rfl (fun i hi => hu2 i (by omega)), h2, andThen_ok, hpos, afterSlot_search, afterSlot_search,
    hdec, hrest]
  have hwrite := writeBit_unfaulted dir
    (s := setSearch (recordDir c (k + 1) dir) (afterSlot (afterSlot s (.read a)) (.read b))) hu3
  dsimp only
  rw [hwrite, andThen_ok]
  rfl

/-- The walk over the first `k` positions. -/
theorem searchWalk_walked {s : State} {probe : Nat → Bool × Bool} (hd : s.pin.drive = .released) (k : Nat) (hk : k ≤ 64)
    (hu : s.env.Unfaulted (8 * k)) (hp : ∀ j, j < k → probe j ≠ (true, true))
    (hprobed : ∀ j, j < k → Probed (afterSlots s (tripletSlots s.search probe j)) (probe j).1 (probe j).2) :
    ∃ c lastZero, Walked s.search probe k lastZero c ∧ searchWalk 64 0 s =
      searchWalk (64 - k) lastZero (setSearch c (afterSlots s (tripletSlots s.search probe k))) := by
  induction k with
  | zero => exact ⟨s.search, 0, walked_zero _ _, rfl⟩
  | succ k ih =>
    obtain ⟨c, lastZero, hc, hwalk⟩ := ih (by omega) (fun i hi => hu i (by omega)) (fun j hj => hp j (by omega))
      fun j hj => hprobed j (by omega)
    have hu8 : (afterSlots s (tripletSlots s.search probe k)).env.Unfaulted 8 :=
      unfaulted_afterSlots hu (by rw [slotPrimitives_tripletSlots, Nat.mul_succ])
    have hdrive : (afterSlots s (tripletSlots s.search probe k)).pin.drive = .released := by
      rw [afterSlots_drive, hd]
      split <;> rfl
    obtain ⟨h1, h2⟩ := hprobed k (Nat.lt_succ_self k)
    refine ⟨_, _, hc.step (by omega), ?_⟩
    rw [hwalk, searchWalk_probed (s := setSearch c _) (by omega) hdrive hu8 ⟨h1, h2⟩
      (decideBit_eq lastZero hc.undecided (hp k (Nat.lt_succ_self k))), afterSlots_setSearch, ← afterSlots_append,
      ← tripletSlots_succ]
    rfl

/-! ## The pass -/

/-- The slots of a complete pass from the search command on. -/
def passSlots (c : SearchState) (probe : Nat → Bool × Bool) : List Slot :=
  w8 Config.cmdSearchRom ++ tripletSlots c probe 64

theorem transfers_passSlots (c : SearchState) (probe : Nat → Bool × Bool) : Transfers (passSlots c probe) :=
  ⟨by simp [passSlots, w8, bitsOf, List.range_succ], fun b => by simp [passSlots, w8, tripletSlots]⟩

/-- The result is that of a complete pass which ends at the cursor `c` in the state `u` otherwise. -/
structure PassResult (x : Result (Option Address)) (c : SearchState) (u : State) : Prop where
  final    : x.final = setSearch c u
  response : x.response .ofSearch = passResponse u.params c
  stays    : searchExit x = x

theorem searchEnd_some (lastZero : Nat) (c : SearchState) (u : State) :
    PassResult (searchEnd (some lastZero) (setSearch c u)) (endOfPass c lastZero) u := by
  have hend : searchEnd (some lastZero) (setSearch c u) =
      if u.params.searchCrcCheck && !crcOk (addressBytes (endOfPass c lastZero).romNo)
      then .raised .crcMismatch (setSearch (endOfPass c lastZero) u)
      else .ok (some (endOfPass c lastZero).romNo) (setSearch (endOfPass c lastZero) u) := rfl
  rw [hend]
  by_cases h : (u.params.searchCrcCheck && !crcOk (addressBytes (endOfPass c lastZero).romNo)) = true
  · rw [if_pos h]
    exact ⟨rfl, by rw [passResponse, if_pos h]; rfl, rfl⟩
  · rw [if_neg h]
    exact ⟨rfl, by rw [passResponse, if_neg h]; rfl, rfl⟩

/-- The search command and the walk, not faulted, some device responding at each position. -/
theorem searchPass_complete {s : State} {probe : Nat → Bool × Bool} (hu : s.env.Unfaulted 528)
    (hp : ∀ k, k < 64 → probe k ≠ (true, true))
    (hprobed : ∀ k, k < 64 → Probed (afterSlots (afterSlots s (w8 Config.cmdSearchRom)) (tripletSlots s.search probe k))
      (probe k).1 (probe k).2) :
    ∃ c, PassCursor s.search probe c ∧ PassResult (searchPass s) c (afterSlots s (passSlots s.search probe)) := by
  have hsearch : (afterSlots s (w8 Config.cmdSearchRom)).search = s.search := (afterSlots_spec _ s).1
  have hdrive : (afterSlots s (w8 Config.cmdSearchRom)).pin.drive = .released := by rw [afterSlots_pin (transfers_w8 _)]
  have hu' : (afterSlots s (w8 Config.cmdSearchRom)).env.Unfaulted (8 * 64) :=
    unfaulted_afterSlots hu (by rw [slotPrimitives_w8])
  obtain ⟨c, lastZero, hc, hwalk⟩ := searchWalk_walked hdrive 64 (Nat.le_refl 64) hu' hp (by rwa [hsearch])
  rw [hsearch] at hc hwalk
  refine ⟨_, hc.endOfPass, ?_⟩
  rw [searchPass, writeByte_unfaulted _ (fun k hk => hu k (by omega)), andThen_ok, hwalk, Nat.sub_self, searchWalk,
    andThen_ok, ← afterSlots_append]
  exact searchEnd_some _ _ _

/-- A whole operation that ends as a complete pass. -/
theorem finish_pass {x : Result (Option Address)} {c : SearchState} {s u : State} (hx : PassResult x c u)
    (hparams : u.params = s.params) (hport : u.port = (accept s).port) (hcrit : u.pin.crit = false) :
    (finish .ofSearch x).search = c ∧ Delivered (passResponse s.params c) s (finish .ofSearch x) ∧
      (finish .ofSearch x).pin = u.pin ∧ (finish .ofSearch x).draws = u.draws ∧ (finish .ofSearch x).host = u.host ∧
      (finish .ofSearch x).params = u.params := by
  obtain ⟨hfinal, hresponse, -⟩ := hx
  refine ⟨by rw [finish_search, hfinal]; rfl, ?_, ?_, by rw [finish_draws, hfinal]; rfl,
    by rw [finish_host, hfinal]; rfl, by rw [finish_params, hfinal]; rfl⟩
  · rw [Delivered, finish_port, hresponse, hparams, hfinal, setSearch_port, hport]
    rfl
  · rw [finish_pin_of_not_crit _ (by rw [hfinal]; exact hcrit), hfinal]
    rfl

/-- The answers of a read slot, without reference devices, are those that come. -/
theorem probed_free {s u : State} {base k : Nat} (h : s.env.FreeAfter (base + 8 * k) u.env) :
    Probed u (s.env.probe base k).1 (s.env.probe base k).2 := by
  refine ⟨?_, ?_⟩
  · rw [readLevel_free h.remote', h.levelAt]
    rfl
  · have hslot := h.trans (afterSlot_freeAfter h.remote' (.read (s.env.probe base k).1))
    rw [readLevel_free hslot.remote', hslot.levelAt]
    rfl

end Sys2Proof.Machine

namespace Sys2Proof

open Machine

/-- Settles O30: the walk keeps what `Walked` says, position by position, and the pass ends at its cursor. -/
theorem searchPassFollowsTheCursor : Obligations.SearchPassFollowsTheCursor := by
  intro s p hr hflag hready hp
  obtain ⟨hidle, hpresent, hu⟩ := hready
  have hreset := busReset_idle (s := accept s) hidle fun k hk => hu k (by omega)
  have hlevel : (accept s).env.levelAt (p + 3) .released .presence = .low := hpresent
  rw [hlevel, presentFlag_low, if_pos rfl] at hreset
  have hpoll := afterPoll_freeAfter (s := accept s) hr p
  have hfree := hpoll.trans (afterSlot_freeAfter hpoll.remote' (.reset true))
  have hw8 := hfree.trans (afterSlots_freeAfter (slotPrimitives_w8 Config.cmdSearchRom) hfree.remote')
  obtain ⟨hsearch, hport, hhost, hparams, hdraws, -⟩ := afterPoll_spec (accept s) p
  have hsearch' : (afterSlot (afterPoll (accept s) p) (.reset true)).search = s.search := hsearch
  obtain ⟨c, hc, hx⟩ := searchPass_complete (probe := s.env.probe (p + 20))
    (hfree.unfaulted (n := 528) fun k hk => hu k (by simp [slotPrimitives] at hk; omega)) hp fun k hk =>
      probed_free (s := accept s) (base := p + 20)
        (hw8.trans (afterSlots_freeAfter (slotPrimitives_tripletSlots _ _ k) hw8.remote'))
  rw [hsearch'] at hc hx
  have hop : search (accept s) = searchPass (afterSlot (afterPoll (accept s) p) (.reset true)) := by
    rw [search, if_neg (by simp [hflag]), hreset, andThen_ok, hx.stays]
  have hpin := afterTransaction_pin (transfers_passSlots s.search (s.env.probe (p + 20))) (accept s) p
  obtain ⟨-, hport', hhost', hparams', hdraws', -⟩ := afterSlots_spec (passSlots s.search (s.env.probe (p + 20)))
    (afterSlot (afterPoll (accept s) p) (.reset true))
  obtain ⟨hcursor, hdelivered, htpin, htdraws, hthost, htparams⟩ := finish_pass (s := s) hx (hparams'.trans hparams)
    (hport'.trans hport) (congrArg Pin.crit hpin)
  have hslots := htpin.trans hpin
  refine ⟨finish .ofSearch (search (accept s)), rfl, ?_⟩
  rw [hop]
  refine ⟨by rwa [hcursor], by rwa [hcursor], ?_, congrArg Pin.slots hslots, htdraws.trans (hdraws'.trans hdraws),
    hthost.trans (hhost'.trans hhost), htparams.trans (hparams'.trans hparams)⟩
  rw [hslots]
  rfl

/-- Settles O57: the piece is such a pass from any line. -/
theorem wireSearchPiece : Obligations.WireSearchPiece := by
  intro s hr hu hp
  have hw8 := afterSlots_freeAfter (slotPrimitives_w8 Config.cmdSearchRom) (s := accept s) hr
  obtain ⟨c, hc, hx⟩ := searchPass_complete (s := accept s) (probe := s.env.probe 16) hu hp fun k hk =>
    probed_free (s := accept s) (hw8.trans (afterSlots_freeAfter (slotPrimitives_tripletSlots _ _ k) hw8.remote'))
  have hpin := afterSlots_pin (transfers_passSlots s.search (s.env.probe 16)) (accept s)
  obtain ⟨-, hport, hhost, hparams, hdraws, -⟩ := afterSlots_spec (passSlots s.search (s.env.probe 16)) (accept s)
  obtain ⟨hcursor, hdelivered, htpin, htdraws, hthost, htparams⟩ := finish_pass (s := s) hx hparams hport
    (congrArg Pin.crit hpin)
  have hslots := htpin.trans hpin
  refine ⟨finish .ofSearch (searchExit (searchPass (accept s))), rfl, ?_⟩
  rw [hx.stays]
  refine ⟨by rwa [hcursor], by rwa [hcursor], ?_, congrArg Pin.slots hslots, htdraws.trans hdraws, hthost.trans hhost,
    htparams.trans hparams⟩
  rw [hslots]
  rfl

end Sys2Proof
end

section
/-! The reference environment (`20_memory.md` R66): its line is ready, its devices come to known modes by a command, and
what they send is read. -/

namespace Sys2Proof.Machine

/-! ## The line -/

section
variable {s : State} {m : Memory} (h : Reference s m)
include h

theorem Reference.script : s.env.script = [] := h.1
theorem Reference.remote : s.env.remote = some m := h.2.1
theorem Reference.wf : Memory.wf m := h.2.2.1
theorem Reference.released : s.pin.drive = .released := h.2.2.2.1

end

theorem levelAt_remote {e : Env} {m : Memory} (hs : e.script = []) (hr : e.remote = some m) (k : Nat) (dr : Drive)
    (kind : SampleKind) : e.levelAt k dr kind = lineLevel dr m kind := by
  simp [Env.levelAt, Env.given, hs, hr]

section
variable {s : State} {m : Memory} (h : Reference s m)
include h

theorem reference_faultFree (n : Nat) : s.env.Unfaulted n := by
  obtain ⟨hscript, hr, -⟩ := h
  exact fun k _ => reference_unfaulted hscript hr k

theorem reference_lineIdle : LineIdle s 0 := by
  obtain ⟨hscript, hr, -, hd, hn⟩ := h
  refine ⟨hn, fun k hk => absurd hk (Nat.not_lt_zero k), ?_⟩
  rw [levelAt_remote hscript hr, hd]
  rfl

theorem reference_lineReady (hm : m ≠ []) (n : Nat) : LineReady s 0 n := by
  refine ⟨reference_lineIdle h, ?_, reference_faultFree h _⟩
  obtain ⟨hscript, hr, -⟩ := h
  obtain ⟨d, m, rfl⟩ := List.exists_cons_of_ne_nil hm
  rw [levelAt_remote hscript hr]
  rfl

end

/-! ## The device at an address -/

theorem mem_of_find {m : Memory} {a : Address} {d : Device} (h : Memory.find m a = some d) : d ∈ m ∧ d.rom = a :=
  ⟨List.mem_of_find?_eq_some h, by simpa using List.find?_some h⟩

/-- Each address is that of one device at most. -/
theorem eq_of_rom_eq {m : Memory} (hwf : Memory.wf m) {d e : Device} (hd : d ∈ m) (he : e ∈ m) (h : d.rom = e.rom) :
    d = e := by
  induction m with
  | nil => exact nomatch hd
  | cons x m ih =>
    obtain ⟨hx, hm⟩ := List.pairwise_cons.mp hwf
    rcases List.mem_cons.mp hd with rfl | hd' <;> rcases List.mem_cons.mp he with rfl | he'
    · rfl
    · exact absurd (hx e he') (by rw [h]; exact lt_irrefl _)
    · exact absurd (hx d hd') (by rw [h]; exact lt_irrefl _)
    · exact ih hm hd' he'

/-- A device after the population's steps comes from the one at its address. -/
theorem exists_of_forall₂ {R : Device → Device → Prop} {m m' : Memory} (h : List.Forall₂ R m m') {d' : Device}
    (hd : d' ∈ m') : ∃ d ∈ m, R d d' := by
  induction h with
  | nil => exact nomatch hd
  | @cons e e' l l' hR _ ih =>
    rcases List.mem_cons.mp hd with rfl | hd
    · exact ⟨e, List.mem_cons_self, hR⟩
    · obtain ⟨d, hmem, hr⟩ := ih hd
      exact ⟨d, List.mem_cons_of_mem _ hmem, hr⟩

/-- A steady time keeps the whole scratchpad of a device that is not converting. -/
theorem Steady.sp_eq {d d' : Device} (h : Steady d d') (hc : d.converting = none) : d'.sp = d.sp := by
  refine BitVec.eq_of_getLsbD_eq fun i hi => ?_
  have hk : i / 8 < 9 := by omega
  have hbit := congrArg (fun b => b.getLsbD (i % 8)) (h.bytes ⟨i / 8, hk⟩ (.inl hc))
  simpa only [getLsbD_byteAt, Nat.mod_lt i (by decide : 0 < 8), decide_true, Bool.true_and, Nat.div_add_mod] using hbit

/-! ## Commands on reference devices -/

/-- The mode of a device after a selection and a command byte. -/
def commandMode (t : Target) (c : Byte) (d : Device) : Mode := modeWrites d.rom (selectedMode t d) (bitsOf c)

theorem commandMode_selected {t : Target} {d : Device} (h : t.selects d.rom) (c : Byte) :
    commandMode t c d = functionMode c := by
  obtain ⟨-, hselected, -⟩ := selection_path d.rom t
  rw [commandMode, selectedMode, hselected h, (function_byte d.rom c).2]

theorem commandMode_idle {t : Target} {d : Device} (h : ¬ t.selects d.rom) (c : Byte) :
    commandMode t c d = .idle := by
  obtain ⟨-, -, hidle⟩ := selection_path d.rom t
  rw [commandMode, selectedMode, hidle h, modeWrites_idle]

/-- The devices after a reset slot, a selection and a command that starts no conversion. -/
theorem open_command {s : State} {m : Memory} (h : Reference s m) (hm : m ≠ []) (t : Target) {c : Byte}
    (hc : c ≠ Config.cmdConvertT) :
    Open (Tracked (fun _ => True) (commandMode t c)) m (afterTransaction s 0 (t.slots ++ w8 c)) := by
  have hleads := leads_sendCommand_quiet (P := fun _ => True) t hc (via_still h.remote)
  rwa [sendCommand_transaction t c (reference_lineReady h hm (t.primitives + 20)) (Nat.le_refl _)] at hleads

theorem afterTransaction_script {s : State} (hs : s.env.script = []) (p : Nat) (xs : List Slot) :
    (afterTransaction s p xs).env.script = [] := by
  rw [(afterTransaction_consumed s p xs).1, hs, List.drop_nil]

/-! ## Bits that the devices send -/

/-- The devices of `m`, come to what `Z` says over the read slots so far, send the bits `f` in the first `n`. -/
structure Sends (Z : Nat → Device → Device → Prop) (m : Memory) (f : Nat → Bool) (n : Nat) : Prop where
  tick : ∀ j, TickStable (Z j)
  read : ∀ j d d', d'.rom = d.rom → Z j d d' → Z (j + 1) d (onRead d')
  sent : ∀ j m', j < n → List.Forall₂ (fun d d' => d'.rom = d.rom ∧ Z j d d') m m' → m'.all sentBit = f j

/-- What a read slot samples is what the devices send, after the time before the sample. -/
theorem readLevel_eq_all {Z : Device → Device → Prop} {m : Memory} {s : State} (hscript : s.env.script = [])
    (hs : Via Z m s.env) (ht : TickStable Z) :
    ∃ m', List.Forall₂ (fun d d' => d'.rom = d.rom ∧ Z d d') m m' ∧ (readLevel s).toBool = m'.all sentBit := by
  obtain ⟨m', hr, hm⟩ := Via.pass .released s.params.timing.tRds (Via.pass .low s.params.timing.tRdl hs ht) ht
  refine ⟨m', hm, ?_⟩
  rw [readLevel, levelAt_remote (e := (s.env.pass .low _).pass .released _) hscript hr, lineLevel, Memory.pullsLow]
  cases m'.all sentBit <;> rfl

section
variable {Z : Nat → Device → Device → Prop} {m : Memory} {f : Nat → Bool} {n : Nat} (h : Sends Z m f n)
include h

theorem Sends.readBit {s : State} {j : Nat} (hj : j < n) (hscript : s.env.script = []) (hs : Open (Z j) m s) :
    ∃ u, Machine.readBit s = .ok (f j) u ∧ u.env.script = [] ∧ Open (Z (j + 1)) m u := by
  obtain ⟨hd, hvia⟩ := hs
  obtain ⟨m', hm', hlevel⟩ := readLevel_eq_all hscript hvia (h.tick j)
  have ⟨m₁, hr, _⟩ := hvia
  have hread := readBit_readLevel hd fun k _ => reference_unfaulted hscript hr k
  rw [hlevel, h.sent j m' hj hm'] at hread
  have hstep : ∀ b, Slotwise s (.read b) (Z j) (Z (j + 1)) := fun _ => ⟨h.tick j, fun _ => h.read j, .inl hd⟩
  have hleads := Machine.leads_readBit hstep hvia
  rw [hread] at hleads
  refine ⟨_, hread, ?_, hleads⟩
  rw [afterSlot_script, hscript, List.drop_nil]

theorem Sends.readBits (k : Nat) : ∀ (i : Nat) (v : Byte) (s : State) (j : Nat), j + k ≤ n → s.env.script = [] →
    Open (Z j) m s → ∃ u, Machine.readBits k i v s = .ok (assemble i v ((List.range k).map fun l => f (j + l))) u ∧
      u.env.script = [] ∧ Open (Z (j + k)) m u := by
  induction k with
  | zero => exact fun i v s j _ hscript hs => ⟨s, rfl, hscript, hs⟩
  | succ k ih =>
    intro i v s j hj hscript hs
    obtain ⟨t, hread, hscript', ht⟩ := h.readBit (by omega) hscript hs
    obtain ⟨u, hrest, hscript'', hu⟩ := ih (i + 1) (setBit v i (f j)) t (j + 1) (by omega) hscript' ht
    refine ⟨u, ?_, hscript'', by rwa [show j + (k + 1) = j + 1 + k by omega]⟩
    have hbits : ((List.range k).map fun l => f (j + 1 + l)) = (List.range k).map ((fun l => f (j + l)) ∘ Nat.succ) :=
      List.map_congr_left fun l _ => congrArg f (by simp only [Nat.succ_eq_add_one]; omega)
    rw [Machine.readBits, hread, andThen_ok, hrest, hbits, List.range_succ_eq_map, List.map_cons, List.map_map,
      assemble]
    rfl

/-- Bytes read are those of the value whose bits the devices send. -/
theorem Sends.readBytes {w : Nat} {x : BitVec w} (hx : ∀ j, j < n → f j = x.getLsbD j) (k : Nat) :
    ∀ (i : Nat) (s : State), 8 * (i + k) ≤ n → s.env.script = [] → Open (Z (8 * i)) m s →
      ∃ u, Machine.readBytes k s = .ok ((List.range k).map fun l => byteAt x (i + l)) u ∧
        u.env.script = [] ∧ Open (Z (8 * (i + k))) m u := by
  induction k with
  | zero => exact fun i s _ hscript hs => ⟨s, rfl, hscript, hs⟩
  | succ k ih =>
    intro i s hi hscript hs
    obtain ⟨t, hread, hscript', ht⟩ := h.readBits 8 0 0 s (8 * i) (by omega) hscript hs
    obtain ⟨u, hrest, hscript'', hu⟩ := ih (i + 1) t (by omega) hscript' (by rwa [Nat.mul_succ])
    have hbyte : assemble 0 0 ((List.range 8).map fun l => f (8 * i + l)) = byteAt x i := by
      rw [← assemble_bitsOf (byteAt x i), bitsOf]
      congr 1
      refine List.map_congr_left fun l hl => ?_
      have hl8 : l < 8 := List.mem_range.mp hl
      rw [hx _ (by omega), getLsbD_byteAt]
      simp [hl8]
    refine ⟨u, ?_, hscript'', by rwa [show i + (k + 1) = i + 1 + k by omega]⟩
    have hbytes : ((List.range k).map fun l => byteAt x (i + 1 + l)) =
        (List.range k).map ((fun l => byteAt x (i + l)) ∘ Nat.succ) :=
      List.map_congr_left fun l _ => congrArg (byteAt x) (by simp only [Nat.succ_eq_add_one]; omega)
    rw [Machine.readBytes, readByte, hread, andThen_ok, hrest, andThen_ok, hbyte, hbytes, List.range_succ_eq_map,
      List.map_cons, List.map_map]
    rfl

end

/-! ## A scratchpad sent -/

/-- The device at `a` is steady and sends its scratchpad from bit `j` on; the others are steady and send nothing. -/
structure Sending (a : Address) (j : Nat) (d d' : Device) : Prop where
  steady : Steady d d'
  mode   : d'.mode = if d.rom = a ∧ j < 72 then .sendSp j else .idle

theorem sending_tick (a : Address) (j : Nat) : TickStable (Sending a j) :=
  fun n now _ d' _ ⟨hsteady, hmode⟩ =>
    ⟨hsteady.trans (steady_tickDevice n now d'), (tickDevice_mode n now d').trans hmode⟩

theorem sending_read {a : Address} {j : Nat} {d d' : Device} (h : Sending a j d d') :
    Sending a (j + 1) d (onRead d') := by
  obtain ⟨hsteady, hmode⟩ := h
  refine ⟨hsteady.trans (steady_onRead d'), ?_⟩
  by_cases ha : d.rom = a ∧ j < 72
  · obtain ⟨hrom, hj⟩ := ha
    rw [if_pos ⟨hrom, hj⟩] at hmode
    by_cases hlast : j < 71
    · simp [onRead, hmode, hrom, hlast]
    · simpa [onRead, hmode, hlast] using fun _ => Nat.le_of_not_lt hlast
  · rw [if_neg ha] at hmode
    have hnext : ¬ (d.rom = a ∧ j + 1 < 72) := fun ⟨hrom, hj⟩ => ha ⟨hrom, by omega⟩
    simp [onRead, hmode, hnext]

/-- The bits on the line are those of the one device that sends. -/
theorem sends_scratchpad {m : Memory} {a : Address} {d : Device} (hwf : Memory.wf m) (hfind : Memory.find m a = some d)
    (hc : d.converting = none) : Sends (Sending a) m (fun j => d.sp.getLsbD j) 72 := by
  refine ⟨sending_tick a, fun j e e' _ => sending_read, fun j m' hj hm' => ?_⟩
  obtain ⟨hmem, hrom⟩ := mem_of_find hfind
  have hown {d' : Device} (hd' : Sending a j d d') : sentBit d' = d.sp.getLsbD j := by
    obtain ⟨hsteady, hmode⟩ := hd'
    rw [if_pos ⟨hrom, hj⟩] at hmode
    rw [sentBit, hmode, ← hsteady.sp_eq hc]
  cases hbit : d.sp.getLsbD j with
  | false =>
    obtain ⟨d', hfind', hd'⟩ := find_of_forall₂ hm' hfind
    rw [List.all_eq_false]
    exact ⟨d', (mem_of_find hfind').1, by rw [hown hd', hbit]; exact Bool.false_ne_true⟩
  | true =>
    rw [List.all_eq_true]
    intro e' he'
    obtain ⟨e, he, -, hz⟩ := exists_of_forall₂ hm' he'
    by_cases hea : e.rom = a
    · obtain rfl := eq_of_rom_eq hwf he hmem (hea.trans hrom.symm)
      rw [hown hz, hbit]
    · obtain ⟨-, hmode⟩ := hz
      rw [if_neg fun h => hea h.1] at hmode
      rw [sentBit, hmode]

/-- With no device that sends, the line reads as ones. -/
theorem sends_ones {m : Memory} {a : Address} (hfind : Memory.find m a = none) :
    Sends (Sending a) m (fun _ => true) 72 := by
  refine ⟨sending_tick a, fun j e e' _ => sending_read, fun j m' hj hm' => ?_⟩
  rw [List.all_eq_true]
  intro e' he'
  obtain ⟨e, he, -, -, hmode⟩ := exists_of_forall₂ hm' he'
  have hea : e.rom ≠ a := by simpa using List.find?_eq_none.mp hfind e he
  rw [if_neg fun h => hea h.1] at hmode
  rw [sentBit, hmode]

/-- READ_SCRATCHPAD on reference devices reads the bits they send. -/
theorem readScratchpad_sends {s : State} {m : Memory} {a : Address} {f : Nat → Bool} {sp : Scratchpad}
    (h : Reference s m) (hm : m ≠ []) (ha : byteAt a 0 = 0x28) (hsends : Sends (Sending a) m f 72)
    (hf : ∀ j, j < 72 → f j = sp.getLsbD j) :
    readScratchpad a s = checked sp (afterTransaction s 0 (readTail a sp)) ∧
      Open (Sending a 72) m (afterTransaction s 0 (readTail a sp)) := by
  have hready := reference_lineReady h hm 380
  have hcommand := open_command h hm (.device a) (c := Config.cmdReadScratchpad) (by decide)
  have hu : (afterTransaction s 0 (matchSlots a ++ w8 Config.cmdReadScratchpad)).env.Unfaulted 216 :=
    command_unfaulted (t := .device a) _ hready (by simp only [Target.primitives]; omega)
  have hsending : Open (Sending a 0) m (afterTransaction s 0 (matchSlots a ++ w8 Config.cmdReadScratchpad)) := by
    refine ⟨hcommand.1, hcommand.2.mono fun d d' hd => ?_⟩
    obtain ⟨hsteady, hmode⟩ := hd trivial
    refine ⟨hsteady, hmode.trans ?_⟩
    by_cases hrom : d.rom = a
    · rw [commandMode_selected (t := .device a) hrom, if_pos ⟨hrom, by decide⟩]
      rfl
    · rw [commandMode_idle (t := .device a) hrom, if_neg fun h => hrom h.1]
  obtain ⟨u, hread, -, hopen⟩ := hsends.readBytes hf 9 0 _ (by decide) (afterTransaction_script h.script _ _) hsending
  obtain ⟨sp', hread', -⟩ := readScratchpad_unfaulted hu
  obtain ⟨hbytes, hu'⟩ := Result.ok.inj (hread.symm.trans hread')
  have hbytes' : bytesOf 9 sp = bytesOf 9 sp' := by
    rw [← hbytes, bytesOf]
    exact List.map_congr_left fun l _ => by rw [Nat.zero_add]
  rw [← hbytes', ← afterTransaction_append] at hread'
  rw [hu', ← hbytes', ← afterTransaction_append] at hopen
  exact ⟨readScratchpad_of_read ha hready (by decide) hread', hopen⟩

theorem ne_nil_of_find {m : Memory} {a : Address} {d : Device} (h : Memory.find m a = some d) : m ≠ [] :=
  List.ne_nil_of_mem (mem_of_find h).1

/-- READ_SCRATCHPAD of a reference device that is not converting. -/
theorem readScratchpad_device {s : State} {m : Memory} {a : Address} {d : Device} (h : Reference s m)
    (ha : byteAt a 0 = 0x28) (hfind : Memory.find m a = some d) (hc : d.converting = none) :
    readScratchpad a s = checked d.sp (afterTransaction s 0 (readTail a d.sp)) ∧
      Open (Sending a 72) m (afterTransaction s 0 (readTail a d.sp)) :=
  readScratchpad_sends h (ne_nil_of_find hfind) ha (sends_scratchpad h.wf hfind hc) fun _ _ => rfl

/-- A scratchpad passes the check when its CRC byte is right. -/
theorem crcOk_iff (sp : Scratchpad) : crcOk (bytesOf 9 sp) = true ↔ crc8 (bytesOf 8 sp) = byteAt sp 8 := by
  rw [crcOk_scratchpad, beq_iff_eq, spCrc]

end Sys2Proof.Machine

namespace Sys2Proof

open Machine

/-- Settles O44: the line carries the bits of the one device that sends (`sends_scratchpad`), or ones (`sends_ones`),
and the reading operations keep the bytes (`via_storesNothing`). -/
theorem referenceDeviceIsRead : Obligations.ReferenceDeviceIsRead := by
  intro s m a h ha
  have hkept {i : Instr} {t : State} (hi : storesNothing i = true) (ht : exec i s = .next t) :
      ∃ m', t.env.remote = some m' ∧ BytesKept m m' fun _ _ => False :=
    nonStoringOperationsKeepScratchpads i s t m hi h.remote ht
  have hpin (sp : Scratchpad) := afterTransaction_pin (transfers_readTail a sp) (accept s) 0
  refine ⟨fun d hfind hc hok => ?_, fun hm hfind => ?_⟩
  · obtain ⟨hread, -⟩ := readScratchpad_device (s := accept s) h ha hfind hc
    rw [crcOk_iff] at hok
    refine ⟨?_, fun r hcfg => ?_, fun r => ?_⟩
    · obtain ⟨t, ht⟩ := readScratchpad_completes hread (hpin d.sp)
      obtain ⟨m', hr, hbytes⟩ := hkept rfl ht.1
      rw [if_pos hok] at ht
      exact ⟨t, m', ht, hr, hbytes⟩
    · have hop := getResolution_ready hread
      rw [if_pos hok, hcfg, Resolution.ofCfg_cfg] at hop
      obtain ⟨t, ht⟩ := completes_of_ok (i := .getResolution a) rfl (lineOnly_getResolution a) hop rfl (hpin d.sp)
      obtain ⟨m', hr, hbytes⟩ := hkept rfl ht.1
      exact ⟨t, m', ht, hr, hbytes⟩
    · obtain ⟨t, ht⟩ := readTemp_completes hread (hpin d.sp) r
      obtain ⟨m', hr, hbytes⟩ := hkept rfl ht.1
      rw [if_pos hok] at ht
      exact ⟨t, m', ht, hr, hbytes⟩
  · obtain ⟨hread, -⟩ := readScratchpad_sends (s := accept s) (sp := BitVec.allOnes 72) h hm ha (sends_ones hfind)
      fun j hj => (BitVec.getLsbD_allOnes.trans (decide_eq_true hj)).symm
    have hones : bytesOf 9 (BitVec.allOnes 72) = List.replicate 9 0xFF := by decide +kernel
    have hbad : ¬ crc8 (bytesOf 8 (BitVec.allOnes 72)) = byteAt (BitVec.allOnes 72) 8 := by decide +kernel
    obtain ⟨t, ht⟩ := readScratchpad_completes hread (hpin _)
    obtain ⟨m', hr, hbytes⟩ := hkept rfl ht.1
    rw [if_neg hbad, ← readSlots_eq, hones] at ht
    exact ⟨t, m', ht, hr, hbytes⟩

end Sys2Proof
end

section
/-! What a write stores (`20_memory.md` R52, R66): the bits a device receives, one by one and as whole bytes, and the
driver's writes on reference devices. -/

namespace Sys2Proof.Machine

/-! ## Devices followed over two operations -/

theorem forall₂_trans {Z Z' : Device → Device → Prop} {m m₁ m₂ : Memory}
    (h : List.Forall₂ (fun d d' => d'.rom = d.rom ∧ Z d d') m m₁)
    (h' : List.Forall₂ (fun d d' => d'.rom = d.rom ∧ Z' d d') m₁ m₂) :
    List.Forall₂ (fun d d' => d'.rom = d.rom ∧ ∃ d₁, d₁.rom = d.rom ∧ Z d d₁ ∧ Z' d₁ d') m m₂ := by
  induction h generalizing m₂ with
  | nil =>
    cases h'
    exact .nil
  | cons hd _ ih =>
    obtain ⟨hrom, hz⟩ := hd
    cases h' with
    | cons hd' htail =>
      obtain ⟨hrom', hz'⟩ := hd'
      exact .cons ⟨hrom'.trans hrom, _, hrom, hz, hz'⟩ (ih htail)

/-- The devices of one operation after another. -/
theorem Via.trans {Z Z' : Device → Device → Prop} {m m₁ : Memory} {e : Env}
    (h : List.Forall₂ (fun d d' => d'.rom = d.rom ∧ Z d d') m m₁) (h' : Via Z' m₁ e) :
    Via (fun d d' => ∃ d₁, d₁.rom = d.rom ∧ Z d d₁ ∧ Z' d₁ d') m e := by
  obtain ⟨m₂, hr, hm⟩ := h'
  exact ⟨m₂, hr, forall₂_trans h hm⟩

theorem roms_of_forall₂ {Z : Device → Device → Prop} {m m' : Memory}
    (h : List.Forall₂ (fun d d' => d'.rom = d.rom ∧ Z d d') m m') : m'.map Device.rom = m.map Device.rom := by
  induction h with
  | nil => rfl
  | cons hd _ ih => rw [List.map_cons, List.map_cons, hd.1, ih]

theorem wf_of_forall₂ {Z : Device → Device → Prop} {m m' : Memory}
    (h : List.Forall₂ (fun d d' => d'.rom = d.rom ∧ Z d d') m m') (hwf : Memory.wf m) : Memory.wf m' := by
  rw [Memory.wf, ← List.pairwise_map (f := Device.rom) (R := fun a b => a.toNat < b.toNat)] at hwf ⊢
  rwa [roms_of_forall₂ h]

/-- What leaves the line released, the answers to the line and the parameters, leaves a reference environment. -/
theorem reference_after {Z : Device → Device → Prop} {s t : State} {m : Memory} (h : Reference s m)
    (hv : Via Z m t.env) (hscript : t.env.script = []) (hd : t.pin.drive = .released) (hp : t.params = s.params) :
    ∃ m', Reference t m' ∧ List.Forall₂ (fun d d' => d'.rom = d.rom ∧ Z d d') m m' := by
  obtain ⟨-, -, hwf, -, hn⟩ := h
  obtain ⟨m', hr, hm⟩ := hv
  exact ⟨m', ⟨hscript, hr, wf_of_forall₂ hm hwf, hd, by rwa [hp]⟩, hm⟩

/-! ## Write slots that are not faulted -/

/-- Write slots of these bits, the first not ending a reset pulse, each leading the devices on. -/
theorem via_writeSlots {m : Memory} (Z : List Bool → Device → Device → Prop)
    (htick : ∀ b bs, TickStable (Z (b :: bs)))
    (hstep : ∀ b bs now d d', d'.rom = d.rom → Z (b :: bs) d d' → Z bs d (onWrite now b d')) :
    ∀ (bs : List Bool) (s : State), (∀ b ∈ bs.head?, NoPulse s (writeLow s.params.timing b)) → Via (Z bs) m s.env →
      Via (Z []) m (afterSlots s (bs.map .write)).env := by
  intro bs
  induction bs with
  | nil => exact fun _ _ hs => hs
  | cons b bs ih =>
    intro s hpulse hs
    refine ih (afterSlot s (.write b)) (fun _ _ => .inl rfl) (hs.afterSlot (htick _ _) fun d d' hrom hz => ?_)
    rw [slotPulse_eq_false (x := .write b) (hpulse b rfl)]
    exact hstep b bs _ d d' hrom hz

/-! ## One bit received -/

/-- The one byte a bit goes into, and the CRC with the last bit, are all that a device that receives changes. -/
theorem byteAt_onRecv {d : Device} {j k : Nat} (b : Bool) (hk : k ≠ 2 + j / 8) (h8 : ¬ (23 ≤ j ∧ k = 8)) :
    byteAt (onRecv d j b).sp k = byteAt d.sp k := by
  have hbit : byteAt (setBit d.sp (16 + j) b) k = byteAt d.sp k := byteAt_setBit_ne d.sp b (by omega)
  rw [onRecv]
  split
  · exact hbit
  · rw [byteAt_setByteAt_ne _ _ (by omega)]
    exact hbit

/-- The bits a device receives into bytes 2 to 4. -/
theorem getLsbD_onRecv {d : Device} {j i : Nat} (b : Bool) (hj : j < 24) (hi : i < 40) :
    (onRecv d j b).sp.getLsbD i = if i = 16 + j then b else d.sp.getLsbD i := by
  have hbit : (setBit d.sp (16 + j) b).getLsbD i = if i = 16 + j then b else d.sp.getLsbD i := by
    split
    · next h => rw [h, getLsbD_setBit_same _ _ (by omega)]
    · next h => exact getLsbD_setBit_ne _ _ (Ne.symm h)
  rw [onRecv]
  split
  · exact hbit
  · rw [getLsbD_setByteAt, if_neg (by omega)]
    exact hbit

theorem onRecv_mode (d : Device) (j : Nat) (b : Bool) :
    (onRecv d j b).mode = if j < 23 then .recvSp (j + 1) else .idle := by
  rw [onRecv]
  split <;> rfl

theorem onRecv_crcOk {j : Nat} (hj : ¬ j < 23) (d : Device) (b : Bool) :
    crcOk (bytesOf 9 (onRecv d j b).sp) = true := by
  rw [onRecv, if_neg hj]
  exact crcOk_setByteAt_spCrc _

/-! ## Bits received in a row -/

/-- A device that is steady since `d` but has received these bits from bit `j` of a scratchpad write on. -/
structure Received (j : Nat) (bits : List Bool) (d d' : Device) : Prop where
  mode   : d'.mode = if j + bits.length < 24 then .recvSp (j + bits.length) else .idle
  stored : ∀ i, 16 ≤ i → i < 40 → d'.sp.getLsbD i =
    if 16 + j ≤ i ∧ i < 16 + j + bits.length then bits.getD (i - (16 + j)) false else d.sp.getLsbD i
  crc    : 24 ≤ j + bits.length → crcOk (bytesOf 9 d'.sp) = true
  others : ∀ k : Fin 9, ¬ (2 ≤ k.val ∧ k.val < 5) → (k = 8 → j + bits.length < 24) →
    (d.converting = none ∨ (k ≠ 0 ∧ k ≠ 1 ∧ k ≠ 8)) → byteAt d'.sp k = byteAt d.sp k
  still  : d.converting = none → d'.converting = none

/-- A bit of a byte that is neither 0, 1 nor 8 is the same after a steady time. -/
theorem SameBytes.getLsbD_eq {d d' : Device} (h : SameBytes d d') {i : Nat} (hi : 16 ≤ i) (hi' : i < 40) :
    d'.sp.getLsbD i = d.sp.getLsbD i := by
  have hk : i / 8 < 9 := by omega
  have h8 : i % 8 < 8 := by omega
  have hne (k : Fin 9) (h : i / 8 ≠ k.val) : (⟨i / 8, hk⟩ : Fin 9) ≠ k := fun heq => h (congrArg Fin.val heq)
  obtain ⟨h0, h1, h8'⟩ : i / 8 ≠ 0 ∧ i / 8 ≠ 1 ∧ i / 8 ≠ 8 := by omega
  have hbyte := h ⟨i / 8, hk⟩ (.inr ⟨hne 0 h0, hne 1 h1, hne 8 h8'⟩)
  have hbit := congrArg (fun b => b.getLsbD (i % 8)) hbyte
  simpa only [getLsbD_byteAt, h8, decide_true, Bool.true_and, Nat.div_add_mod] using hbit

theorem received_nil {j : Nat} {d d' : Device} (hj : j < 24) (h : Steady d d') (hmode : d'.mode = .recvSp j) :
    Received j [] d d' where
  mode := by simp [hmode, hj]
  stored i hi hi' := by simp [h.bytes.getLsbD_eq hi hi', show ¬ (16 + j ≤ i ∧ i < 16 + j) by omega]
  crc h24 := absurd h24 (by simpa using hj)
  others k _ _ hk := h.bytes k hk
  still := h.still

theorem Received.steady {j : Nat} {bits : List Bool} {d d' d'' : Device} (h : Received j bits d d') (g : Steady d' d'')
    (hmode : d''.mode = d'.mode) (hcrc : crcOk (bytesOf 9 d'.sp) = true → crcOk (bytesOf 9 d''.sp) = true) :
    Received j bits d d'' where
  mode := hmode.trans h.mode
  stored i hi hi' := (g.bytes.getLsbD_eq hi hi').trans (h.stored i hi hi')
  crc h24 := hcrc (h.crc h24)
  others k hk h8 hc := (g.bytes k (hc.imp h.still id)).trans (h.others k hk h8 hc)
  still := g.still ∘ h.still

/-- The end of a conversion keeps the bits received, and the CRC. -/
theorem received_tick (j : Nat) (bits : List Bool) : TickStable (Received j bits) := by
  refine fun n now d d' _ h => h.steady (steady_tickDevice n now d') (tickDevice_mode n now d') fun hcrc => ?_
  obtain hd | ⟨-, hd⟩ := tickDevice_cases n now d' <;> rw [hd]
  · exact hcrc
  · exact endConversion_crcOk n d'

/-- One more bit. -/
theorem Received.write {j : Nat} {bits : List Bool} {d d' : Device} (h : Received j bits d d') (hj : j < 24) (now : Nat)
    (b : Bool) : Received j (bits ++ [b]) d (onWrite now b d') := by
  have hlen : (bits ++ [b]).length = bits.length + 1 := by simp
  have hmode := h.mode
  by_cases hmore : j + bits.length < 24
  · rw [if_pos hmore] at hmode
    have hwrite : onWrite now b d' = onRecv d' (j + bits.length) b := by rw [onWrite, hmode]
    rw [hwrite]
    refine ⟨?_, fun i hi hi' => ?_, fun h24 => ?_, fun k hk h8 hc => ?_, fun hc => ?_⟩
    · rw [onRecv_mode, hlen]
      by_cases h23 : j + bits.length < 23
      · rw [if_pos h23, if_pos (by omega), Nat.add_assoc]
      · rw [if_neg h23, if_neg (by omega)]
    · rw [getLsbD_onRecv b hmore hi', h.stored i hi hi', hlen]
      by_cases hlast : i = 16 + (j + bits.length)
      · have hget : i - (16 + j) = bits.length := by omega
        rw [if_pos hlast, if_pos (by omega), hget]
        simp
      · by_cases hin : 16 + j ≤ i ∧ i < 16 + j + bits.length
        · rw [if_neg hlast, if_pos hin, if_pos (by omega), List.getD_append _ _ _ _ (by omega)]
        · rw [if_neg hlast, if_neg hin, if_neg (by omega)]
    · exact onRecv_crcOk (by omega) d' b
    · have hlast : ¬ (23 ≤ j + bits.length ∧ k.val = 8) := fun ⟨h23, hk8⟩ => by
        have := h8 (Fin.ext hk8)
        omega
      rw [byteAt_onRecv b (by omega) hlast]
      exact h.others k hk (fun h => by have := h8 h; omega) hc
    · rw [onRecv_converting]
      exact h.still hc
  · rw [if_neg hmore] at hmode
    have hwrite : onWrite now b d' = d' := by rw [onWrite, hmode]
    rw [hwrite]
    refine ⟨?_, fun i hi hi' => ?_, fun _ => h.crc (by omega), fun k hk h8 hc => ?_, h.still⟩
    · rw [hmode, hlen, if_neg (by omega)]
    · rw [h.stored i hi hi', hlen]
      by_cases hin : 16 + j ≤ i
      · rw [if_pos (by omega), if_pos (by omega), List.getD_append _ _ _ _ (by omega)]
      · rw [if_neg (by omega), if_neg (by omega)]
    · exact h.others k hk (fun h => by have := h8 h; omega) hc

/-- A device that receives these bits while the ones to come are `bs`. -/
def Receiving (j : Nat) (all bs : List Bool) (d d' : Device) : Prop :=
  ∃ taken, taken ++ bs = all ∧ Received j taken d d'

theorem receiving_step {j : Nat} {all : List Bool} (hj : j < 24) (b : Bool) (bs : List Bool) (now : Nat) (d d' : Device)
    (h : Receiving j all (b :: bs) d d') : Receiving j all bs d (onWrite now b d') := by
  obtain ⟨taken, rfl, hd⟩ := h
  exact ⟨taken ++ [b], by simp, hd.write hj now b⟩

theorem receiving_tick (j : Nat) (all bs : List Bool) : TickStable (Receiving j all bs) := by
  rintro n now d d' hrom ⟨taken, rfl, hd⟩
  exact ⟨taken, rfl, received_tick j taken n now d d' hrom hd⟩

theorem Receiving.done {j : Nat} {all : List Bool} {d d' : Device} (h : Receiving j all [] d d') :
    Received j all d d' := by
  obtain ⟨taken, rfl, hd⟩ := h
  rwa [List.append_nil]

/-! ## Whole bytes received -/

theorem getD_flatMap_bitsOf (vs : List Byte) : ∀ {k i : Nat}, k < vs.length → i < 8 →
    (vs.flatMap bitsOf).getD (8 * k + i) false = (vs.getD k 0).getLsbD i := by
  induction vs with
  | nil => exact fun hk => absurd hk (Nat.not_lt_zero _)
  | cons v vs ih =>
    intro k i hk hi
    rw [List.flatMap_cons]
    cases k with
    | zero =>
      rw [List.getD_append _ _ _ _ (by rw [bitsOf_length]; omega)]
      simp [bitsOf, hi]
    | succ k =>
      rw [List.getD_append_right _ _ _ _ (by rw [bitsOf_length]; omega), bitsOf_length,
        show 8 * (k + 1) + i - 8 = 8 * k + i by omega, ih (by simpa using hk) hi, List.getD_cons_succ]

/-- Three bytes received whole are bytes 2, 3 and 4. -/
theorem Received.threeBytes {th tl cfg : Byte} {d d' : Device}
    (h : Received 0 ([th, tl, cfg].flatMap bitsOf) d d') :
    byteAt d'.sp 2 = th ∧ byteAt d'.sp 3 = tl ∧ byteAt d'.sp 4 = cfg ∧ crcOk (bytesOf 9 d'.sp) = true := by
  have hlen : ([th, tl, cfg].flatMap bitsOf).length = 24 := by simp
  have hbyte (k : Nat) (hk : k < 3) : byteAt d'.sp (2 + k) = [th, tl, cfg].getD k 0 := by
    refine BitVec.eq_of_getLsbD_eq fun i hi => ?_
    have hget : 8 * (2 + k) + i - (16 + 0) = 8 * k + i := by omega
    rw [getLsbD_byteAt, h.stored _ (by omega) (by omega), if_pos (by rw [hlen]; omega), hget,
      getD_flatMap_bitsOf _ hk hi]
    simp [hi]
  exact ⟨hbyte 0 (by decide), hbyte 1 (by decide), hbyte 2 (by decide), h.crc (by omega)⟩

/-! ## WRITE_SCRATCHPAD on reference devices -/

/-- The devices of `P` have these bits to receive, of all; those of `Q` are idle. -/
structure Written (P Q : Device → Prop) (all bs : List Bool) (d d' : Device) : Prop where
  own   : P d → Receiving 0 all bs d d'
  other : Q d → Steady d d' ∧ d'.mode = .idle

/-- The device at `a` receives, and the others are idle. -/
abbrev WrittenAt (a : Address) : List Bool → List Bool → Device → Device → Prop :=
  Written (fun d => d.rom = a) fun d => d.rom ≠ a

section
variable {P Q : Device → Prop} {all : List Bool}

theorem written_tick (bs : List Bool) : TickStable (Written P Q all bs) := by
  refine fun n now d d' hrom ⟨hown, hother⟩ =>
    ⟨fun hp => receiving_tick 0 all bs n now d d' hrom (hown hp), fun hq => ?_⟩
  obtain ⟨hsteady, hmode⟩ := hother hq
  exact ⟨hsteady.trans (steady_tickDevice n now d'), (tickDevice_mode n now d').trans hmode⟩

theorem written_step (b : Bool) (bs : List Bool) (now : Nat) (d d' : Device) (_ : d'.rom = d.rom)
    (h : Written P Q all (b :: bs) d d') : Written P Q all bs d (onWrite now b d') := by
  obtain ⟨hown, hother⟩ := h
  refine ⟨fun hp => receiving_step (by decide) b bs now d d' (hown hp), fun hq => ?_⟩
  obtain ⟨hsteady, hmode⟩ := hother hq
  have hwrite : onWrite now b d' = d' := by rw [onWrite, hmode]
  rw [hwrite]
  exact ⟨hsteady, hmode⟩

/-- What the write does not store into. -/
theorem Written.bytes {th tl cfg : Byte} {d d' : Device} (h : Written P Q ([th, tl, cfg].flatMap bitsOf) [] d d')
    (hpq : P d ∨ Q d) (k : Fin 9) (hk : ¬ (P d ∧ (k = 2 ∨ k = 3 ∨ k = 4 ∨ k = 8)))
    (hc : d.converting = none ∨ (k ≠ 0 ∧ k ≠ 1 ∧ k ≠ 8)) : byteAt d'.sp k = byteAt d.sp k := by
  rcases hpq with hp | hq
  · refine (h.own hp).done.others k (fun hk' => hk ⟨hp, ?_⟩) (fun h8 => absurd ⟨hp, by simp [h8]⟩ hk) hc
    simp only [Fin.ext_iff]
    have : (2 : Fin 9).val = 2 ∧ (3 : Fin 9).val = 3 ∧ (4 : Fin 9).val = 4 := ⟨rfl, rfl, rfl⟩
    omega
  · exact (h.other hq).1.bytes k hc

end

theorem map_write_threeBytes (th tl cfg : Byte) :
    ([th, tl, cfg].flatMap bitsOf).map Slot.write = w8 th ++ w8 tl ++ w8 cfg := by
  simp [w8]

/-- The devices after WRITE_SCRATCHPAD. -/
theorem writeScratchpad_devices {s : State} {m : Memory} {a : Address} (h : Reference s m) (hm : m ≠ [])
    (ha : byteAt a 0 = 0x28) (th tl cfg : Byte) :
    writeScratchpad a th tl cfg s = .ok () (afterTransaction s 0 (writeTail a th tl cfg)) ∧
      Open (WrittenAt a ([th, tl, cfg].flatMap bitsOf) []) m (afterTransaction s 0 (writeTail a th tl cfg)) := by
  refine ⟨writeScratchpad_ready ha th tl cfg (reference_lineReady h hm 212) (Nat.le_refl 212), ?_, ?_⟩
  · rw [afterTransaction_pin (transfers_writeTail a th tl cfg)]
  · obtain ⟨hd, hcommand⟩ := open_command h hm (.device a) (c := Config.cmdWriteScratchpad) (by decide)
    rw [writeTail, afterTransaction_append, ← map_write_threeBytes]
    refine via_writeSlots (WrittenAt a ([th, tl, cfg].flatMap bitsOf)) (fun _ _ => written_tick _) written_step _ _
      (fun _ _ => .inl hd) (hcommand.mono fun d d' hz => ?_)
    obtain ⟨hsteady, hmode⟩ := hz trivial
    refine ⟨fun hrom => ⟨[], rfl, received_nil (by decide) hsteady ?_⟩, fun hrom => ⟨hsteady, ?_⟩⟩
    · rw [hmode, commandMode_selected (t := .device a) hrom]
      rfl
    · rw [hmode, commandMode_idle (t := .device a) hrom]

/-- The environment after a whole operation is what its steps leave. -/
theorem env_of_operate {α : Type} {mk : α → Response} {op : State → Result α} {i : Instr} {s t : State}
    (hexec : exec i s = operate mk op s) (ht : exec i s = .next t) : t.env = (op (accept s)).final.env := by
  rw [hexec, operate] at ht
  cases ht
  exact finish_env mk _

/-! ## SET_RESOLUTION on reference devices -/

/-- SET_RESOLUTION of a reference device that is not converting and passes the check: two transactions, the second from
the reference environment the first leaves, and a reference environment after it. -/
theorem setResolution_reference {s : State} {m : Memory} {a : Address} {d : Device} (h : Reference s m)
    (ha : byteAt a 0 = 0x28) (hfind : Memory.find m a = some d) (hc : d.converting = none)
    (hok : crcOk (bytesOf 9 d.sp) = true) (r : Resolution) :
    ∃ t m', Completes (.setResolution a r) s t ⟨.ok, 0, 0, 0⟩
      (pollEvents s.params.timing 0 ++ slotEvents s (readSlots a (bytesOf 9 d.sp)) ++
        (pollEvents s.params.timing 0 ++ slotEvents s (writeSlots a (byteAt d.sp 2) (byteAt d.sp 3) r.cfg)))
      (readSlots a (bytesOf 9 d.sp) ++ writeSlots a (byteAt d.sp 2) (byteAt d.sp 3) r.cfg) ∧ Reference t m' ∧
      List.Forall₂ (fun d₀ d' => d'.rom = d₀.rom ∧ ∃ d₁, d₁.rom = d₀.rom ∧ Sending a 72 d₀ d₁ ∧
        WrittenAt a ([byteAt d.sp 2, byteAt d.sp 3, r.cfg].flatMap bitsOf) [] d₁ d') m m' := by
  obtain ⟨hread, hdrive, hvia⟩ := readScratchpad_device (s := accept s) h ha hfind hc
  have hline := lineOnly_readScratchpad a (accept s)
  rw [hread, checked_final] at hline
  have hpin := afterTransaction_pin (transfers_readTail a d.sp) (accept s) 0
  obtain ⟨m₁, hm₁, hforall⟩ := reference_after (s := accept s) h hvia
    (afterTransaction_script (s := accept s) h.script _ _) hdrive hline.params
  generalize afterTransaction (accept s) 0 (readTail a d.sp) = u at hread hline hpin hm₁
  have hparams : u.params = s.params := hline.params
  obtain ⟨d₁, hfind₁, -⟩ := find_of_forall₂ hforall hfind
  obtain ⟨hwrite, hwritten⟩ := writeScratchpad_devices hm₁ (ne_nil_of_find hfind₁) ha (byteAt d.sp 2) (byteAt d.sp 3)
    r.cfg
  have hop := setResolution_ready hread r
  rw [if_pos ((crcOk_iff _).mp hok), hwrite] at hop
  have hevents : slotEvents u (.reset true :: writeTail a (byteAt d.sp 2) (byteAt d.sp 3) r.cfg) =
      slotEvents s (.reset true :: writeTail a (byteAt d.sp 2) (byteAt d.sp 3) r.cfg) := by
    rw [slotEvents, slotEvents, hparams]
  have hpin' := afterTransaction_pin (transfers_writeTail a (byteAt d.sp 2) (byteAt d.sp 3) r.cfg) u 0
  rw [hpin, hevents, hparams] at hpin'
  have hscript : (afterTransaction u 0 (writeTail a (byteAt d.sp 2) (byteAt d.sp 3) r.cfg)).env.script = [] :=
    afterTransaction_script hm₁.script _ _
  obtain ⟨-, hwritten⟩ := hwritten
  generalize afterTransaction u 0 _ = v at hop hpin' hscript hwritten
  obtain ⟨t, hrun, hdelivered, htpin, hsearch, hdraws, hhost, htparams⟩ := completes_of_ok
    (i := .setResolution a r) rfl (lineOnly_setResolution a r) hop rfl hpin'
  have henv := env_of_operate (op := setResolution a r) rfl hrun
  rw [hop, final_ok] at henv
  obtain ⟨m', hm', htwice⟩ := reference_after (s := s) (t := t) h
    ((Via.trans hforall hwritten).congr (congrArg Env.remote henv))
    (by rw [henv, hscript]) (by rw [htpin]) htparams
  exact ⟨t, m', ⟨hrun, hdelivered, htpin, hsearch, hdraws, hhost, htparams⟩, hm', htwice⟩

end Sys2Proof.Machine

namespace Sys2Proof

open Machine

/-- Settles O46: bit by bit the device at the Address receives the three bytes (`Received`), and the others follow
nothing. -/
theorem writeScratchpadStores : Obligations.WriteScratchpadStores := by
  intro s m a d th tl cfg h ha hfind
  obtain ⟨hop, -, hvia⟩ := writeScratchpad_devices (s := accept s) h (ne_nil_of_find hfind) ha th tl cfg
  obtain ⟨t, hrun, hdelivered, -, hkept⟩ := completes_of_ok (i := .writeScratchpad a th tl cfg) rfl
    (lineOnly_writeScratchpad a th tl cfg) hop rfl (afterTransaction_pin (transfers_writeTail a th tl cfg) _ _)
  have henv := env_of_operate (op := writeScratchpad a th tl cfg) rfl hrun
  rw [hop, final_ok] at henv
  rw [← henv] at hvia
  obtain ⟨m', hr, hfinds⟩ := hvia.find
  obtain ⟨d', hfind', hz⟩ := hfinds hfind
  obtain ⟨h2, h3, h4, hok⟩ := (hz.own (mem_of_find hfind).2).done.threeBytes
  refine ⟨t, m', d', hrun, hdelivered, hkept, hr, hfind', h2, h3, h4, hok, bytesKept_of_find fun b e he => ?_⟩
  obtain ⟨e', he', hz⟩ := hfinds he
  refine ⟨e', he', fun k hk hc => hz.bytes (em _) k ?_ hc⟩
  rwa [(mem_of_find he).2]

/-- Settles O47: two transactions (`setResolution_reference`), of which only the second stores. -/
theorem setResolutionStores : Obligations.SetResolutionStores := by
  intro s m a d r h ha hfind hc hok
  obtain ⟨t, m', hcompletes, hm', hforall⟩ := setResolution_reference h ha hfind hc hok r
  obtain ⟨d', hfind', d₁, hrom₁, -, hz⟩ := find_of_forall₂ hforall hfind
  obtain ⟨h2, h3, h4, hok'⟩ := (hz.own (hrom₁.trans (mem_of_find hfind).2)).done.threeBytes
  refine ⟨t, m', d', hcompletes, hm'.remote, hfind', h4, hok', bytesKept_of_find fun b e he => ?_⟩
  obtain ⟨e', he', e₁, hrom, hsending, hwritten⟩ := find_of_forall₂ hforall he
  refine ⟨e', he', fun k hk hke => ?_⟩
  have hthrough (hk' : ¬ (e₁.rom = a ∧ (k = 2 ∨ k = 3 ∨ k = 4 ∨ k = 8))) : byteAt e'.sp k = byteAt e.sp k :=
    (hwritten.bytes (em _) k hk' (hke.imp hsending.steady.still id)).trans (hsending.steady.bytes k hke)
  by_cases hb : b = a
  · obtain rfl := hb
    obtain rfl := Option.some.inj (hfind.symm.trans he)
    obtain rfl := Option.some.inj (hfind'.symm.trans he')
    by_cases hk2 : k = 2
    · rw [hk2]
      exact h2
    · by_cases hk3 : k = 3
      · rw [hk3]
        exact h3
      · exact hthrough fun ⟨_, h⟩ => hk ⟨rfl, (h.resolve_left hk2).resolve_left hk3⟩
  · exact hthrough fun ⟨h, _⟩ => hb (by rw [← h, hrom, (mem_of_find he).2])

/-- Settles O48: SET_RESOLUTION leaves a reference environment whose device is read by the second operation. -/
theorem resolutionRoundTrip : Obligations.ResolutionRoundTrip := by
  intro s m a d r h ha hfind hc hok
  obtain ⟨t, m', hcompletes, hm', hforall⟩ := setResolution_reference h ha hfind hc hok r
  obtain ⟨d', hfind', d₁, hrom₁, hsending, hz⟩ := find_of_forall₂ hforall hfind
  have hreceived := (hz.own (hrom₁.trans (mem_of_find hfind).2)).done
  obtain ⟨-, -, h4, hok'⟩ := hreceived.threeBytes
  obtain ⟨hget, -⟩ := referenceDeviceIsRead t m' a hm' ha
  obtain ⟨-, hresolution, -⟩ := hget d' hfind' (hreceived.still (hsending.steady.still hc)) hok'
  obtain ⟨u, -, ⟨hrun, hdelivered, -⟩, -⟩ := hresolution r h4
  exact ⟨t, u, hcompletes.1, hrun, by rw [hdelivered], by rw [hdelivered], by rw [hdelivered]⟩

end Sys2Proof
end

section
/-! Conversions on reference devices: the ones a convert command starts, and the one MEASURE waits for and reads
(`43_ds18b20.md` R160, R166, `20_memory.md` R66). -/

namespace Sys2Proof.Machine

/-! ## The convert command -/

/-- The convert command without its last bit. -/
def convertBits : List Bool := (List.range 7).map Config.cmdConvertT.getLsbD

theorem w8_convert : w8 Config.cmdConvertT = convertBits.map .write ++ [.write false] := rfl

theorem modeWrites_convertBits (rom : Address) :
    modeWrites rom (.function 0 0) convertBits = .function 7 Config.cmdConvertT := rfl

/-- The last bit of the convert command starts the conversion. -/
theorem onWrite_convert {d : Device} (now : Nat) (h : d.mode = .function 7 Config.cmdConvertT) :
    onWrite now false d = startConversion now d := by
  rw [onWrite, h]
  rfl

/-- After a convert command whose last slot ends at `now`, the selected devices convert and no other was started. -/
structure Started (t : Target) (now : Nat) (d d' : Device) : Prop where
  own   : t.selects d.rom → ∃ d₁, Steady d d₁ ∧ d' = startConversion now d₁
  other : ¬ t.selects d.rom → Steady d d'

/-- The devices after a reset slot and a selection. -/
theorem open_selected {s : State} {m : Memory} (h : Reference s m) (hm : m ≠ []) (t : Target) :
    Open (Tracked (fun _ => True) (selectedMode t)) m (afterTransaction s 0 t.slots) := by
  obtain ⟨hidle, hpresent, -⟩ := reference_lineReady h hm 0
  have hu' : (afterSlot (afterPoll s 0) (.reset true)).env.Unfaulted t.primitives := fun k hk => by
    rw [afterPoll_reset_faultAt]
    exact reference_faultFree h _ _ (Nat.lt_succ_self _)
  have hleads := leads_resetSelect (P := fun _ => True) t (via_still h.remote)
  rwa [busReset_idle hidle (reference_faultFree h _), hpresent, presentFlag_low, if_pos rfl, andThen_ok,
    select_unfaulted t hu'] at hleads

/-- The devices after a reset slot, a selection and the convert command. -/
theorem open_convert {s : State} {m : Memory} (h : Reference s m) (hm : m ≠ []) (t : Target) :
    Open (Started t (afterTransaction s 0 (t.slots ++ w8 Config.cmdConvertT)).env.elapsedUs) m
      (afterTransaction s 0 (t.slots ++ w8 Config.cmdConvertT)) := by
  have hselected := open_selected h hm t
  have hscript := afterTransaction_script h.script 0 t.slots
  rw [afterTransaction_append, w8_convert, afterSlots_append]
  generalize afterTransaction s 0 t.slots = u at hselected hscript
  have ⟨_, hr, _⟩ := hselected.2
  have hbits := leads_writeBits_quiet (bs := convertBits) hselected fun d _ => by
    rcases selectedMode_attentive t d with hmode | hmode <;> rw [hmode]
    · exact (quietPath_function d.rom convertBits 0 0 (by decide)).1
    · exact quietPath_idle d.rom _
  rw [writeBits_unfaulted convertBits fun k _ => reference_unfaulted hscript hr k] at hbits
  obtain ⟨hdrive, hvia⟩ := hbits
  generalize afterSlots u (convertBits.map .write) = v at hdrive hvia
  refine ⟨rfl, hvia.afterSlot (x := .write false) (tracked_tick _) fun d d' hrom hz => ?_⟩
  rw [slotPulse_released _ hdrive]
  obtain ⟨hsteady, hmode⟩ := hz trivial
  simp only at hmode
  obtain ⟨-, hselects, hidle⟩ := selection_path d.rom t
  refine ⟨fun hsel => ⟨d', hsteady, onWrite_convert _ ?_⟩, fun hsel => hsteady.trans (steady_onWrite _ ?_)⟩
  · rw [hmode, selectedMode, hselects hsel, modeWrites_convertBits]
  · rw [hmode, selectedMode, hidle hsel, modeWrites_idle]
    exact ⟨nofun, nofun⟩

theorem Started.converting {t : Target} {now : Nat} {d d' : Device} (h : Started t now d d')
    (hsel : t.selects d.rom) : d'.converting = some ⟨byteAt d.sp 4, now⟩ := by
  obtain ⟨d₁, hsteady, rfl⟩ := h.own hsel
  have hcfg : byteAt d₁.sp 4 = byteAt d.sp 4 := hsteady.bytes 4 (.inr (by decide))
  rw [startConversion, hcfg]

/-! ## The conversion that MEASURE waits for -/

/-- What the end of the wait leaves of a device in which MEASURE started a conversion: it has ended, with the next
temperature, or the one after it if an earlier conversion ended before the start. -/
structure Converted (d d' : Device) : Prop where
  done  : d'.converting = none
  crc   : crcOk (bytesOf 9 d'.sp) = true
  drawn : ∃ n, n ≤ 1 ∧ (d.converting = none → n = 0) ∧ d'.temps = d.temps.drop (n + 1) ∧
    ∀ raw, d.temps[n]? = some raw → rawTemp (byteAt d'.sp 0) (byteAt d'.sp 1) = raw

/-- A wait that covers the conversion time of the device's own resolution. -/
theorem Started.wait {t : Target} {d d' : Device} {s : State} {r₀ : Resolution} {ms : Nat}
    (h : Started t s.env.elapsedUs d d') (hsel : t.selects d.rom) (hcfg : Resolution.ofCfg (byteAt d.sp 4) = some r₀)
    (hms : r₀.convMs ≤ ms) : Converted d (afterPause s ms d') := by
  have hconv := h.converting hsel
  have hdue : Conversion.due ⟨byteAt d.sp 4, s.env.elapsedUs⟩ = some (s.env.elapsedUs + 1000 * r₀.convMs) := by
    rw [Conversion.due, hcfg]
    rfl
  obtain ⟨hdone, htail, hsp⟩ := afterPause_due (s := s) (ms := ms) hconv hdue (by omega)
  obtain ⟨d₁, hsteady, rfl⟩ := h.own hsel
  obtain ⟨n, hn, hended, hdrop⟩ := hsteady.drawn
  have htemps : (startConversion s.env.elapsedUs d₁).temps = d.temps.drop n := hdrop
  refine ⟨hdone, by rw [hsp]; exact endConversion_crcOk _ _, n, hn, fun hnone => ?_, ?_, fun raw hraw => ?_⟩
  · exact by_contra fun h0 => (hended h0).1 hnone
  · rw [htail, htemps, List.tail_drop]
  · rw [hsp, endConversion_rawTemp, htemps, List.headD_eq_head?_getD, List.head?_drop, hraw]
    rfl

/-- Reading the scratchpad does not change it. -/
theorem Converted.read {a : Address} {d d' d'' : Device} (h : Converted d d') (g : Sending a 72 d' d'') :
    d''.sp = d'.sp ∧ Converted d d'' := by
  obtain ⟨hdone, hcrc, n, hn, hnone, htemps, hraw⟩ := h
  have hsp := g.steady.sp_eq hdone
  obtain ⟨k, -, hended, hdrop⟩ := g.steady.drawn
  have hk : k = 0 := by_contra fun h0 => (hended h0).1 hdone
  rw [hk, List.drop_zero] at hdrop
  exact ⟨hsp, g.steady.still hdone, by rwa [hsp], n, hn, hnone, hdrop.trans htemps, by rwa [hsp]⟩

/-- The bytes that neither the conversion nor anything else writes. -/
theorem Started.bytes {a : Address} {now : Nat} {s : State} {ms : Nat} {d d' d'' : Device}
    (h : Started (.device a) now d d') (g : Sending a 72 (afterPause s ms d') d'') (k : Fin 9)
    (hk : ¬ (d.rom = a ∧ (k = 0 ∨ k = 1 ∨ k = 8))) (hc : d.converting = none ∨ (k ≠ 0 ∧ k ≠ 1 ∧ k ≠ 8)) :
    byteAt d''.sp k = byteAt d.sp k := by
  have hlater : Steady d' d'' := (steady_afterPause s ms d').trans g.steady
  by_cases hrom : d.rom = a
  · have hk' : k ≠ 0 ∧ k ≠ 1 ∧ k ≠ 8 := by simpa [hrom] using hk
    obtain ⟨d₁, hsteady, rfl⟩ := h.own hrom
    exact (hlater.bytes k (.inr hk')).trans (hsteady.bytes k (.inr hk'))
  · exact ((h.other hrom).trans hlater).bytes k hc

theorem env_waited (w : Suspended) (s : State) : (endWait w (raiseWait w s)).env = (elapse w.res.convMs s).env := rfl

/-- The wait from a reference environment. -/
theorem reference_waited {s : State} {m : Memory} (h : Reference s m) (w : Suspended) :
    ∃ m', Reference (endWait w (raiseWait w s)) m' ∧
      List.Forall₂ (fun d d' => d'.rom = d.rom ∧ d' = afterPause s w.res.convMs d) m m' := by
  have ⟨hscript, hr, _, hdrive, _⟩ := h
  refine reference_after h ?_ ?_ ?_ ?_
  · rw [env_waited]
    exact via_elapse w.res.convMs hr
  · rw [env_waited, elapse_env_script, hscript]
  · rw [endWait_pin, raiseWait_pin_drive, hdrive]
  · rw [endWait_params, raiseWait_params]

/-! ## The waits in a trace -/

theorem hostWaitMs_append (xs ys : List Event) : hostWaitMs (xs ++ ys) = hostWaitMs xs + hostWaitMs ys := by
  simp [hostWaitMs]

theorem hostWaitMs_slotEvents (s : State) (xs : List Slot) : hostWaitMs (slotEvents s xs) = 0 := by
  induction xs with
  | nil => rfl
  | cons x xs ih =>
    rw [slotEvents, List.flatMap_cons, hostWaitMs_append]
    refine (Nat.add_eq_zero_iff).mpr ⟨?_, ih⟩
    cases x <;> rfl

theorem hostWaitMs_pollEvents (t : Timing) (p : Nat) : hostWaitMs (pollEvents t p) = 0 := by
  induction p with
  | zero => rfl
  | succ p ih =>
    rw [pollEvents, List.replicate_succ, List.flatten_cons, List.append_assoc, hostWaitMs_append]
    exact (Nat.add_eq_zero_iff).mpr ⟨rfl, ih⟩

end Sys2Proof.Machine

namespace Sys2Proof

open Machine

/-- Settles O50: the last slot of the command starts the conversions (`open_convert`). -/
theorem startMeasurementStartsConversions : Obligations.StartMeasurementStartsConversions := by
  intro s m h hm
  have hstarts (tgt : Target) (htgt : ∀ a, tgt = .device a → byteAt a 0 = 0x28) {i : Instr}
      (hexec : exec i s = operate (fun _ => .done) (startMeasurement tgt) s) :
      ∃ t m', exec i s = .next t ∧ t.env.remote = some m' ∧ ∀ b d, Memory.find m b = some d →
        ∃ d', Memory.find m' b = some d' ∧ Started tgt t.env.elapsedUs d d' := by
    have hop := startMeasurement_ready (s := accept s) htgt
      (reference_lineReady (s := accept s) h hm (tgt.primitives + 20)) (Nat.le_refl _)
    have hvia := (open_convert (s := accept s) h hm tgt).2
    generalize afterTransaction (accept s) 0 _ = u at hop hvia
    obtain ⟨m', hr, hfinds⟩ := hvia.find
    refine ⟨finish (fun _ => .done) (startMeasurement tgt (accept s)), m', hexec, ?_⟩
    rw [finish_env, hop, final_ok]
    exact ⟨hr, fun _ _ hd => hfinds hd⟩
  refine ⟨?_, fun a ha => ?_⟩
  · obtain ⟨t, m', hrun, hr, hfinds⟩ := hstarts .skip nofun (i := .startMeasurementSkip) rfl
    refine ⟨t, m', hrun, hr, fun b d hd => ?_⟩
    obtain ⟨d', hd', hz⟩ := hfinds b d hd
    exact ⟨d', hd', hz.converting trivial⟩
  · obtain ⟨t, m', hrun, hr, hfinds⟩ := hstarts (.device a) (fun b hb => by cases hb; exact ha)
      (i := .startMeasurementMatch a) rfl
    refine ⟨t, m', hrun, hr, fun b d hd => ?_⟩
    obtain ⟨d', hd', hz⟩ := hfinds b d hd
    have hrom := (mem_of_find hd).2
    refine ⟨d', hd', fun hb => hz.converting (hrom.trans hb), fun hb => (hz.other fun hsel => ?_).still⟩
    exact hb (hrom.symm.trans hsel)

/-- Settles O52: the start leaves the addressed device converting (`open_convert`), the wait covers its conversion
(`Started.wait`), and the second transaction reads what it left (`readScratchpad_device`). -/
theorem measureReturnsTheSensedTemperature : Obligations.MeasureReturnsTheSensedTemperature := by
  intro s m a d r r₀ h ha hfind hdone hcfg hle
  have hm := ne_nil_of_find hfind
  have hrom := (mem_of_find hfind).2
  have hstart := startMeasurement_ready (s := accept s) (t := .device a) (fun b hb => by cases hb; exact ha)
    (reference_lineReady (s := accept s) h hm 164) (Nat.le_refl 164)
  obtain ⟨hdrive, hvia⟩ := open_convert (s := accept s) h hm (.device a)
  have hline := lineOnly_startMeasurement (.device a) (accept s)
  rw [hstart, final_ok] at hline
  have hslots := (transfers_target (.device a)).append (transfers_w8 Config.cmdConvertT)
  have hpin := afterTransaction_pin hslots (accept s) 0
  obtain ⟨m₁, hm₁, hforall₁⟩ := reference_after (s := accept s) h hvia
    (afterTransaction_script (s := accept s) h.script _ _) hdrive hline.params
  generalize afterTransaction (accept s) 0 _ = u at hstart hline hpin hm₁ hforall₁
  obtain ⟨e, t, hx, -⟩ | ⟨t, hx, -, hrun⟩ := measure_cases ⟨a, r⟩ (accept s)
  · exact nomatch hstart.symm.trans hx
  obtain ⟨-, rfl⟩ := Result.ok.inj (hstart.symm.trans hx)
  have hdone' : (accept s).host.waitDone = true := hdone
  rw [if_pos hdone'] at hrun
  obtain ⟨m₂, hm₂, hforall₂⟩ := reference_waited hm₁ ⟨a, r⟩
  obtain ⟨d₁, hfind₁, hstarted⟩ := find_of_forall₂ hforall₁ hfind
  obtain ⟨d₂, hfind₂, rfl⟩ := find_of_forall₂ hforall₂ hfind₁
  have hconverted := hstarted.wait (ms := r.convMs) hrom hcfg hle
  obtain ⟨hread, -, hsent⟩ := readScratchpad_device hm₂ ha hfind₂ hconverted.done
  have hpin' := afterTransaction_pin (transfers_readTail a (afterPause u r.convMs d₁).sp)
    (endWait ⟨a, r⟩ (raiseWait ⟨a, r⟩ u)) 0
  have hline' := lineOnly_readScratchpad a (endWait ⟨a, r⟩ (raiseWait ⟨a, r⟩ u))
  rw [hread, checked_final] at hline'
  generalize afterTransaction (endWait ⟨a, r⟩ (raiseWait ⟨a, r⟩ u)) 0 _ = v at hread hsent hpin' hline'
  have htemp := readTemp_ready hread r
  rw [if_pos ((crcOk_iff _).mp hconverted.crc)] at htemp
  obtain ⟨hkept, hanswer, htpin⟩ := resumeMeasure_answers (w := ⟨a, r⟩) (s := raiseWait ⟨a, r⟩ u) htemp rfl
    (pin := v.pin) rfl (by rw [hpin'])
  have henv : (resumeMeasure ⟨a, r⟩ (raiseWait ⟨a, r⟩ u)).env = v.env := by
    rw [resumeMeasure, htemp, finish_env, final_ok]
  obtain ⟨m', hr, hfinds⟩ := hsent.find
  obtain ⟨d', hfind', hsending⟩ := hfinds hfind₂
  obtain ⟨hsp, hdone', -, n, hn, hnone, htemps, hraw⟩ := hconverted.read hsending
  refine ⟨resumeMeasure ⟨a, r⟩ (raiseWait ⟨a, r⟩ u), m', d', n, congrArg Host.Outcome.next hrun, ?_, ?_, ?_, ?_, ?_, ?_,
    by rwa [henv], hfind', hdone', hn, hnone, htemps, hraw, bytesKept_of_find fun b e he => ?_⟩
  · obtain ⟨hsearch, hdraws, hhost, hparams⟩ := hkept
    exact ⟨hsearch.trans hline.search, hdraws.trans hline.draws, hhost.trans hline.host, hparams.trans hline.params⟩
  · rw [hanswer, raiseWait, emit_port, hline.port, hsp, hline'.params, endWait_params, raiseWait_params, hline.params]
    rfl
  · rw [htpin, hpin']
  · rw [htpin, hpin']
  · rw [htpin, hpin', endWait_pin, raiseWait_pin_trace, hpin, hostWaitMs_append, hostWaitMs_append, hostWaitMs_append,
      hostWaitMs_append, hostWaitMs_append, hostWaitMs_pollEvents, hostWaitMs_pollEvents, hostWaitMs_slotEvents,
      hostWaitMs_slotEvents]
    simp [hostWaitMs]
  · rw [htpin, hpin', hsp, endWait_pin, raiseWait_pin_slots, hpin]
    rfl
  · obtain ⟨e₁, he₁, hstarted'⟩ := find_of_forall₂ hforall₁ he
    obtain ⟨e₂, he₂, rfl⟩ := find_of_forall₂ hforall₂ he₁
    obtain ⟨e', he', hsending'⟩ := hfinds he₂
    refine ⟨e', he', fun k hk hc => hstarted'.bytes hsending' k ?_ hc⟩
    rwa [(mem_of_find he).2]

end Sys2Proof
end

section
/-! The raw writes on reference devices (`20_memory.md` R52, R66): which bits they store, and where nothing is stored. -/

namespace Sys2Proof.Machine

/-! ## One write slot -/

/-- What a write slot of `b` leaves of a device: time passes, and the bit is written. -/
def Slotted (b : Bool) (d d' : Device) : Prop := ∃ d₁ now, Steady d d₁ ∧ d₁.mode = d.mode ∧ d' = onWrite now b d₁

theorem via_writeSlot {s : State} {m : Memory} {b : Bool} (hr : s.env.remote = some m)
    (hpulse : NoPulse s (writeLow s.params.timing b)) : Via (Slotted b) m (afterSlot s (.write b)).env := by
  refine (via_tracked (P := fun _ => True) hr).afterSlot (tracked_tick _) fun d d' _ hz => ?_
  rw [slotPulse_eq_false (x := .write b) hpulse]
  obtain ⟨hsteady, hmode⟩ := hz trivial
  exact ⟨d', _, hsteady, hmode, rfl⟩

/-- A device that expects bit `j` of a transfer receives it. -/
theorem Slotted.received {b : Bool} {d d' : Device} {j : Nat} (h : Slotted b d d') (hmode : d.mode = .recvSp j)
    (hj : j < 24) : Received j [b] d d' := by
  obtain ⟨d₁, now, hsteady, hmode₁, rfl⟩ := h
  exact (received_nil hj hsteady (hmode₁.trans hmode)).write hj now b

/-- The bytes in which a write slot stores nothing. -/
theorem Slotted.bytes {b : Bool} {d d' : Device} (h : Slotted b d d') (k : Fin 9)
    (hk : ¬ ∃ j, d.mode = .recvSp j ∧ (k.val = 2 + j / 8 ∨ (23 ≤ j ∧ k = 8)))
    (hc : d.converting = none ∨ (k ≠ 0 ∧ k ≠ 1 ∧ k ≠ 8)) : byteAt d'.sp k = byteAt d.sp k := by
  obtain ⟨d₁, now, hsteady, hmode₁, rfl⟩ := h
  by_cases hrecv : ∃ j, d.mode = .recvSp j
  · obtain ⟨j, hmode⟩ := hrecv
    have hne : k.val ≠ 2 + j / 8 := fun h => hk ⟨j, hmode, .inl h⟩
    have h8 : ¬ (23 ≤ j ∧ k.val = 8) := fun ⟨h23, h8⟩ => hk ⟨j, hmode, .inr ⟨h23, Fin.ext h8⟩⟩
    rw [onWrite, hmode₁, hmode]
    exact (byteAt_onRecv b hne h8).trans (hsteady.bytes k hc)
  · refine hsteady.sameBytes (sameBytes_onWrite now b fun j hj => hrecv ⟨j, ?_⟩) k hc
    rw [← hmode₁, hj]

/-! ## Eight write slots -/

/-- Over a byte: a device that expects a bit after the last of a transfer stores one more, wherever it falls, and the
CRC. -/
def Overrun (j : Nat) (d d' : Device) : Prop :=
  Steady d d' ∧ d'.mode = .recvSp j ∨
    d'.mode = .idle ∧ (d.converting = none → d'.converting = none) ∧ ∀ k : Fin 9, k.val ≠ 2 + j / 8 → k ≠ 8 →
      (d.converting = none ∨ (k ≠ 0 ∧ k ≠ 1 ∧ k ≠ 8)) → byteAt d'.sp k = byteAt d.sp k

theorem overrun_tick (j : Nat) : TickStable (Overrun j) := by
  rintro n now d d' - (⟨hsteady, hmode⟩ | ⟨hmode, hstill, hbytes⟩) <;> have ht := steady_tickDevice n now d'
  · exact .inl ⟨hsteady.trans ht, (tickDevice_mode n now d').trans hmode⟩
  · exact .inr ⟨(tickDevice_mode n now d').trans hmode, ht.still ∘ hstill, fun k hk h8 hc =>
      (ht.bytes k (hc.imp hstill id)).trans (hbytes k hk h8 hc)⟩

theorem overrun_step {j : Nat} (hj : 24 ≤ j) (b : Bool) (now : Nat) (d d' : Device) (h : Overrun j d d') :
    Overrun j d (onWrite now b d') := by
  rcases h with ⟨hsteady, hmode⟩ | ⟨hmode, hrest⟩
  · have hwrite : onWrite now b d' = onRecv d' j b := by rw [onWrite, hmode]
    rw [hwrite]
    refine .inr ⟨by rw [onRecv_mode, if_neg (by omega)], fun hc => ?_, fun k hk h8 hc => ?_⟩
    · rw [onRecv_converting]
      exact hsteady.still hc
    · rw [byteAt_onRecv b hk fun ⟨_, h⟩ => h8 (Fin.ext h)]
      exact hsteady.bytes k hc
  · have hwrite : onWrite now b d' = d' := by rw [onWrite, hmode]
    rw [hwrite]
    exact .inr ⟨hmode, hrest⟩

theorem Overrun.bytes {j : Nat} {d d' : Device} (h : Overrun j d d') (k : Fin 9) (hk : k.val ≠ 2 + j / 8) (h8 : k ≠ 8)
    (hc : d.converting = none ∨ (k ≠ 0 ∧ k ≠ 1 ∧ k ≠ 8)) : byteAt d'.sp k = byteAt d.sp k := by
  rcases h with ⟨hsteady, -⟩ | ⟨-, -, hbytes⟩
  · exact hsteady.bytes k hc
  · exact hbytes k hk h8 hc

/-- With `n` slots of a byte to come, a device that was collecting a function command may come to receive some of them
into byte 2, or to convert. -/
structure Spill (n : Nat) (d d' : Device) : Prop where
  len   : n ≤ 8
  mode  : d'.mode = .idle ∨ (∃ j, d'.mode = .sendSp j) ∨ (∃ k acc, d'.mode = .function k acc) ∨
    ∃ j, d'.mode = .recvSp j ∧ j + n < 8
  bytes : ∀ k, 3 ≤ k → k < 8 → byteAt d'.sp k = byteAt d.sp k

theorem spill_tick (n : Nat) : TickStable (Spill n) := by
  refine fun i now d d' _ ⟨hlen, hmode, hbytes⟩ => ⟨hlen, by rwa [tickDevice_mode], fun k hk hk' => ?_⟩
  have hne (l : Fin 9) (h : k ≠ l.val) : (⟨k, by omega⟩ : Fin 9) ≠ l := fun heq => h (congrArg Fin.val heq)
  obtain ⟨h0, h1, h8⟩ : k ≠ 0 ∧ k ≠ 1 ∧ k ≠ 8 := by omega
  have ht := (steady_tickDevice i now d').bytes ⟨k, by omega⟩ (.inr ⟨hne 0 h0, hne 1 h1, hne 8 h8⟩)
  exact ht.trans (hbytes k hk hk')

theorem spill_step (n : Nat) (b : Bool) (now : Nat) (d d' : Device) (h : Spill (n + 1) d d') :
    Spill n d (onWrite now b d') := by
  obtain ⟨hlen, hmode, hbytes⟩ := h
  rcases hmode with hmode | ⟨j, hmode⟩ | ⟨k, acc, hmode⟩ | ⟨j, hmode, hj⟩
  · have hwrite : onWrite now b d' = d' := by rw [onWrite, hmode]
    rw [hwrite]
    exact ⟨by omega, .inl hmode, hbytes⟩
  · have hwrite : onWrite now b d' = d' := by rw [onWrite, hmode]
    rw [hwrite]
    exact ⟨by omega, .inr (.inl ⟨j, hmode⟩), hbytes⟩
  · have hsp : (onWrite now b d').sp = d'.sp := onWrite_sp now b fun j hj => nomatch hmode.symm.trans hj
    refine ⟨by omega, ?_, fun k hk hk' => by rw [hsp, hbytes k hk hk']⟩
    rw [onWrite, hmode]
    dsimp only
    split
    · exact .inr (.inr (.inl ⟨_, _, rfl⟩))
    · rw [onFunction_mode, functionMode]
      split_ifs
      · exact .inr (.inl ⟨0, rfl⟩)
      · exact .inr (.inr (.inr ⟨0, rfl, by omega⟩))
      · exact .inl rfl
  · have hwrite : onWrite now b d' = onRecv d' j b := by rw [onWrite, hmode]
    rw [hwrite]
    refine ⟨by omega, .inr (.inr (.inr ⟨j + 1, ?_, by omega⟩)), fun k hk hk' => ?_⟩
    · rw [onRecv_mode, if_pos (by omega)]
    · rw [byteAt_onRecv b (by omega) (by omega), hbytes k hk hk']

/-- In this mode, the `n` slots left of a byte store nothing and complete no function command before the last. -/
structure Attuned (n : Nat) (μ : Mode) : Prop where
  len      : n ≤ 8
  recv     : ∀ j, μ ≠ .recvSp j
  function : ∀ k acc, μ = .function k acc → k + n ≤ 8

theorem Attuned.quiet {n : Nat} {μ : Mode} (h : Attuned (n + 2) μ) (b : Bool) : Quiet μ b :=
  ⟨h.recv, fun k acc hk => .inl (by have := h.function k acc hk; omega)⟩

/-- A mode that neither receives nor collects a function command becomes no such mode, but for a function command to be
collected from its first bit on. -/
theorem modeWrite_deaf {μ : Mode} (hrecv : ∀ j, μ ≠ .recvSp j) (hfunction : ∀ k acc, μ ≠ .function k acc)
    (rom : Address) (b : Bool) : (∀ j, modeWrite rom μ b ≠ .recvSp j) ∧
      ∀ k acc, modeWrite rom μ b = .function k acc → k = 0 := by
  have hrom (c : Byte) : (∀ j, romCommandMode c ≠ .recvSp j) ∧ ∀ k acc, romCommandMode c = .function k acc → k = 0 := by
    unfold romCommandMode
    split_ifs <;> exact ⟨nofun, fun k acc h => by cases h <;> rfl⟩
  rcases μ with ⟨k, acc⟩ | i | ⟨i, _ | _ | _⟩ | ⟨k, acc⟩ | j | j | _ <;> simp only [modeWrite, onWrite]
  case romCommand =>
    split
    · exact ⟨nofun, nofun⟩
    · exact hrom _
  case matching => split_ifs <;> exact ⟨nofun, fun k acc h => by cases h <;> rfl⟩
  case searching.direction => split_ifs <;> exact ⟨nofun, nofun⟩
  case function => exact absurd rfl (hfunction k acc)
  case recvSp => exact absurd rfl (hrecv j)
  all_goals exact ⟨nofun, nofun⟩

theorem Attuned.write {n : Nat} {μ : Mode} (h : Attuned (n + 2) μ) (rom : Address) (b : Bool) :
    Attuned (n + 1) (modeWrite rom μ b) := by
  obtain ⟨hlen, hrecv, hfunction⟩ := h
  by_cases hμ : ∃ k acc, μ = .function k acc
  · obtain ⟨k, acc, rfl⟩ := hμ
    have hk := hfunction k acc rfl
    rw [modeWrite_function (by omega)]
    refine ⟨by omega, nofun, fun k' acc' h => ?_⟩
    cases h
    omega
  · obtain ⟨hrecv', hzero⟩ := modeWrite_deaf hrecv (fun k acc h => hμ ⟨k, acc, h⟩) rom b
    exact ⟨by omega, hrecv', fun k acc h => by rw [hzero k acc h]; omega⟩

/-- A device in such a mode keeps its bytes over the slots left of a byte. -/
def Deaf (n : Nat) (d d' : Device) : Prop := if n = 0 then SameBytes d d' else Steady d d' ∧ Attuned n d'.mode

theorem deaf_tick (n : Nat) : TickStable (Deaf (n + 1)) := by
  intro i now d d' _ h
  rw [Deaf, if_neg (Nat.succ_ne_zero n)] at h ⊢
  obtain ⟨hsteady, hmode⟩ := h
  exact ⟨hsteady.trans (steady_tickDevice i now d'), by rwa [tickDevice_mode]⟩

theorem deaf_step (n : Nat) (b : Bool) (now : Nat) (d d' : Device) (h : Deaf (n + 1) d d') :
    Deaf n d (onWrite now b d') := by
  rw [Deaf, if_neg (Nat.succ_ne_zero n)] at h
  obtain ⟨hsteady, hmode⟩ := h
  cases n with
  | zero => exact hsteady.sameBytes (sameBytes_onWrite now b hmode.recv)
  | succ n =>
    rw [Deaf, if_neg (Nat.succ_ne_zero n), onWrite_mode]
    exact ⟨hsteady.trans (steady_onWrite now (hmode.quiet b)), hmode.write d'.rom b⟩

/-- The devices over the write slots of a byte, by the mode they are in before it. -/
structure ByteSlotted (all bs : List Bool) (d d' : Device) : Prop where
  receives : ∀ j, d.mode = .recvSp j → j < 24 → Receiving j all bs d d'
  overruns : ∀ j, d.mode = .recvSp j → 24 ≤ j → Overrun j d d'
  spills   : ∀ n acc, d.mode = .function n acc → n ≠ 0 → Spill bs.length d d'
  deaf     : (∀ j, d.mode ≠ .recvSp j) → (∀ n acc, d.mode = .function n acc → n = 0) → Deaf bs.length d d'

theorem byteSlotted_tick (all : List Bool) (b : Bool) (bs : List Bool) : TickStable (ByteSlotted all (b :: bs)) :=
  fun n now d d' hrom h =>
    ⟨fun j hmode hj => receiving_tick j all _ n now d d' hrom (h.receives j hmode hj),
      fun j hmode hj => overrun_tick j n now d d' hrom (h.overruns j hmode hj),
      fun k acc hmode hk => spill_tick _ n now d d' hrom (h.spills k acc hmode hk),
      fun hrecv hzero => deaf_tick _ n now d d' hrom (h.deaf hrecv hzero)⟩

theorem byteSlotted_step (all : List Bool) (b : Bool) (bs : List Bool) (now : Nat) (d d' : Device)
    (_ : d'.rom = d.rom) (h : ByteSlotted all (b :: bs) d d') : ByteSlotted all bs d (onWrite now b d') :=
  ⟨fun j hmode hj => receiving_step hj b bs now d d' (h.receives j hmode hj),
    fun j hmode hj => overrun_step hj b now d d' (h.overruns j hmode hj),
    fun k acc hmode hk => spill_step _ b now d d' (h.spills k acc hmode hk),
    fun hrecv hzero => deaf_step _ b now d d' (h.deaf hrecv hzero)⟩

theorem byteSlotted_start {all : List Bool} (hall : all.length = 8) (d : Device) : ByteSlotted all all d d where
  receives j hmode hj := ⟨[], rfl, received_nil hj (.refl d) hmode⟩
  overruns j hmode _ := .inl ⟨.refl d, hmode⟩
  spills n acc hmode _ := ⟨hall.le, .inr (.inr (.inl ⟨n, acc, hmode⟩)), fun _ _ _ => rfl⟩
  deaf hrecv hzero := by
    rw [Deaf, hall, if_neg (by decide)]
    exact ⟨.refl d, Nat.le_refl 8, hrecv, fun k acc hk => by rw [hzero k acc hk]⟩

theorem via_writeByteSlots {s : State} {m : Memory} {v : Byte} (hr : s.env.remote = some m)
    (hpulse : NoPulse s (writeLow s.params.timing (v.getLsbD 0))) :
    Via (ByteSlotted (bitsOf v) []) m (afterSlots s (w8 v)).env := by
  refine via_writeSlots (ByteSlotted (bitsOf v)) (byteSlotted_tick _) (byteSlotted_step _) (bitsOf v) s ?_
    ((Via.of_remote hr).mono fun d d' hd => hd ▸ byteSlotted_start (bitsOf_length v) d)
  intro b hb
  obtain rfl : v.getLsbD 0 = b := by simpa [bitsOf, List.range_succ] using hb
  exact hpulse

/-- The bytes in which the slots of a byte store nothing. -/
theorem ByteSlotted.bytes {v : Byte} {d d' : Device} (h : ByteSlotted (bitsOf v) [] d d') (k : Fin 9)
    (hk : ¬ ((∃ j l, d.mode = .recvSp j ∧ l < 8 ∧ (l = 0 ∨ j + l < 24) ∧ k.val = 2 + (j + l) / 8) ∨
      (∃ j, d.mode = .recvSp j ∧ 16 ≤ j ∧ k = 8) ∨
      (∃ n acc, d.mode = .function n acc ∧ n ≠ 0 ∧ (k = 0 ∨ k = 1 ∨ k = 2 ∨ k = 8))))
    (hc : d.converting = none ∨ (k ≠ 0 ∧ k ≠ 1 ∧ k ≠ 8)) : byteAt d'.sp k = byteAt d.sp k := by
  simp only [not_or] at hk
  obtain ⟨hbit, hcrc, hspill⟩ := hk
  by_cases hrecv : ∃ j, d.mode = .recvSp j
  · obtain ⟨j, hmode⟩ := hrecv
    by_cases hj : j < 24
    · have hreceived := (h.receives j hmode hj).done
      by_cases hin : 2 ≤ k.val ∧ k.val < 5
      · refine BitVec.eq_of_getLsbD_eq fun i hi => ?_
        have hout : ¬ (16 + j ≤ 8 * k.val + i ∧ 8 * k.val + i < 16 + j + (bitsOf v).length) := by
          rw [bitsOf_length]
          intro hbits
          exact hbit ⟨j, 8 * k.val + i - (16 + j), hmode, by omega, .inr (by omega), by omega⟩
        rw [getLsbD_byteAt, getLsbD_byteAt, hreceived.stored _ (by omega) (by omega), if_neg hout]
      · refine hreceived.others k hin (fun h8 => ?_) hc
        rw [bitsOf_length]
        by_contra h24
        exact hcrc ⟨j, hmode, by omega, h8⟩
    · refine (h.overruns j hmode (by omega)).bytes k (fun hk2 => hbit ⟨j, 0, hmode, by omega, .inl rfl, hk2⟩)
        (fun h8 => hcrc ⟨j, hmode, by omega, h8⟩) hc
  · by_cases hfunction : ∃ n acc, d.mode = .function n acc ∧ n ≠ 0
    · obtain ⟨n, acc, hmode, hn⟩ := hfunction
      have hne : k.val ≠ 0 ∧ k.val ≠ 1 ∧ k.val ≠ 2 ∧ k.val ≠ 8 := by
        refine ⟨fun h => ?_, fun h => ?_, fun h => ?_, fun h => ?_⟩ <;>
          exact hspill ⟨n, acc, hmode, hn, by simp [Fin.ext_iff, h]⟩
      exact (h.spills n acc hmode hn).bytes k (by omega) (by omega)
    · have hdeaf := h.deaf (fun j hj => hrecv ⟨j, hj⟩) fun n acc hmode =>
        by_contra fun hn => hfunction ⟨n, acc, hmode, hn⟩
      exact hdeaf k hc

/-! ## The write piece -/

/-- The devices over the write-scratchpad piece: the selected ones receive its three bytes. -/
theorem via_writePiece {s : State} {m : Memory} (th tl cfg : Byte) (hr : s.env.remote = some m)
    (hpulse : NoPulse s s.params.timing.tW0l) :
    Via (Written (fun d => d.mode = .function 0 0) (fun d => d.mode = .idle) ([th, tl, cfg].flatMap bitsOf) []) m
      (afterSlots s (w8 Config.cmdWriteScratchpad ++ (w8 th ++ w8 tl ++ w8 cfg))).env := by
  have hcommand : Via (Tracked (fun d => Attentive d.mode)
      fun d => modeWrites d.rom d.mode (bitsOf Config.cmdWriteScratchpad)) m
      (afterSlots s (w8 Config.cmdWriteScratchpad)).env := by
    refine (via_writeSlots (OnPath (fun d => Attentive d.mode) _) (fun _ _ => onPath_tick _ _) onPath_step
      (bitsOf Config.cmdWriteScratchpad) s (fun b hb => ?_)
      ((Via.of_remote hr).mono fun d d' hd hmode => ?_)).mono fun _ _ => OnPath.tracked
    · cases hb
      exact hpulse
    · rw [hd]
      exact ⟨.refl d, attentive_path hmode d.rom (by decide), rfl⟩
  have hdrive : (afterSlots s (w8 Config.cmdWriteScratchpad)).pin.drive = .released := by
    rw [afterSlots_pin (transfers_w8 _)]
  rw [afterSlots_append, ← map_write_threeBytes]
  refine via_writeSlots (Written (fun d => d.mode = .function 0 0) (fun d => d.mode = .idle) _)
    (fun _ _ => written_tick _) written_step _ _ (fun _ _ => .inl hdrive) (hcommand.mono fun d d' hz => ?_)
  refine ⟨fun hmode => ⟨[], rfl, ?_⟩, fun hmode => ?_⟩
  · obtain ⟨hsteady, hmode'⟩ := hz (.inl hmode)
    simp only [hmode, (function_byte d.rom _).2] at hmode'
    exact received_nil (by decide) hsteady hmode'
  · obtain ⟨hsteady, hmode'⟩ := hz (.inr hmode)
    simp only [hmode, modeWrites_idle] at hmode'
    exact ⟨hsteady, hmode'⟩

end Sys2Proof.Machine

namespace Sys2Proof

open Machine

/-- Settles O60: each slot writes its bit by the mode the device is in (`Slotted`, `ByteSlotted`), and the piece is its
command and three bytes received (`via_writePiece`). -/
theorem rawWritesStoreIntoReceivers : Obligations.RawWritesStoreIntoReceivers := by
  intro s m hr
  refine ⟨fun b hu hpulse => ?_, fun v hu hpulse => ?_, fun th tl cfg hu hpulse => ?_⟩
  · have henv : (finish (fun _ => .done) (writeBit b (accept s))).env = (afterSlot (accept s) (.write b)).env := by
      rw [finish_env, writeBit_unfaulted (s := accept s) b hu, final_ok]
    obtain ⟨m', hr', hfinds⟩ := (via_writeSlot (s := accept s) hr hpulse).find
    refine ⟨_, m', rfl, henv.symm ▸ hr', fun a d j hd hmode hj => ?_, bytesKept_of_find fun a d hd => ?_⟩
    · obtain ⟨d', hd', hz⟩ := hfinds hd
      have hreceived := hz.received hmode hj
      refine ⟨d', hd', ?_, fun i hi hi' hne => ?_, ?_⟩
      · rw [hreceived.stored _ (by omega) (by omega), if_pos (by simp), Nat.sub_self]
        rfl
      · have hout : ¬ (16 + j ≤ i ∧ i < 16 + j + [b].length) := by
          rw [List.length_singleton]
          omega
        rw [hreceived.stored i hi hi', if_neg hout]
      · rw [hreceived.mode, List.length_singleton]
        by_cases h23 : j < 23
        · rw [if_pos h23, if_pos (by omega)]
        · rw [if_neg h23, if_neg (by omega)]
    · obtain ⟨d', hd', hz⟩ := hfinds hd
      exact ⟨d', hd', fun k hk hc => hz.bytes k (fun ⟨j, h⟩ => hk ⟨d, j, hd, h⟩) hc⟩
  · have henv : (finish (fun _ => .done) (writeByte v (accept s))).env = (afterSlots (accept s) (w8 v)).env := by
      rw [finish_env, writeByte_unfaulted (s := accept s) v hu, final_ok]
    obtain ⟨m', hr', hfinds⟩ := (via_writeByteSlots (s := accept s) hr hpulse).find
    refine ⟨_, m', rfl, henv.symm ▸ hr', fun a d j hd hmode hj => ?_, bytesKept_of_find fun a d hd => ?_⟩
    · obtain ⟨d', hd', hz⟩ := hfinds hd
      have hreceived := (hz.receives j hmode hj).done
      refine ⟨d', hd', fun i hi hi' => ?_, ?_, fun h16 => hreceived.crc (by rw [bitsOf_length]; omega)⟩
      · rw [hreceived.stored i hi hi', bitsOf_length]
        by_cases hin : 16 + j ≤ i ∧ i < 24 + j
        · have hlt : i - (16 + j) < 8 := by omega
          rw [if_pos (by omega), if_pos hin]
          simp [bitsOf, hlt]
        · rw [if_neg (by omega), if_neg hin]
      · rw [hreceived.mode, bitsOf_length]
        by_cases h16 : j < 16
        · rw [if_pos h16, if_pos (by omega)]
        · rw [if_neg h16, if_neg (by omega)]
    · obtain ⟨d', hd', hz⟩ := hfinds hd
      exact ⟨d', hd', fun k hk hc => hz.bytes k (fun h => hk ⟨d, hd, h⟩) hc⟩
  · have henv : (finish (fun _ => .done) (writeScratchpadPiece th tl cfg (accept s))).env =
        (afterSlots (accept s) (w8 Config.cmdWriteScratchpad ++ (w8 th ++ w8 tl ++ w8 cfg))).env := by
      rw [finish_env, writeScratchpadPiece_unfaulted (s := accept s) th tl cfg hu, final_ok]
    obtain ⟨m', hr', hfinds⟩ := (via_writePiece (s := accept s) th tl cfg hr hpulse).find
    generalize afterSlots (accept s) _ = u at henv hr'
    refine ⟨_, m', rfl, by rw [henv, hr'], fun a d hd hmode => ?_, bytesKept_of_find fun a d hd => ?_⟩
    · obtain ⟨d', hd', hz⟩ := hfinds hd
      exact ⟨d', hd', (hz.own hmode).done.threeBytes⟩
    · obtain ⟨d', hd', hz⟩ := hfinds hd
      refine ⟨d', hd', fun k hk hc => hz.bytes ?_ k (fun h => hk ⟨d, hd, .inl h⟩) hc⟩
      by_contra hmode
      rw [not_or] at hmode
      exact hk ⟨d, hd, .inr hmode⟩

end Sys2Proof
end

section
/-! A line that the engine holds low: when it is a reset pulse to the devices, and how it is released
(`70_reset_and_hazards.md` R224). -/

namespace Sys2Proof.Machine

/-! ## Devices that a low line resets -/

/-- The device is as after a reset pulse. -/
def Renewed (d d' : Device) : Prop := Steady d d' ∧ d'.mode = .romCommand 0 0

theorem steady_tick : TickStable Steady := fun n now _ d' _ h => h.trans (steady_tickDevice n now d')

theorem via_steady {m : Memory} {e : Env} (h : e.remote = some m) : Via Steady m e :=
  (Via.of_remote h).mono fun d _ hd => hd ▸ .refl d

theorem Steady.renewed {d d' : Device} (h : Steady d d') : Renewed d (onReset d') :=
  ⟨h.trans (steady_onReset d'), rfl⟩

theorem Via.allReset {m : Memory} {e : Env} (h : Via Renewed m e) : ∃ m', e.remote = some m' ∧ AllReset m m' := by
  obtain ⟨m', hr, hm⟩ := h
  refine ⟨m', hr, roms_of_forall₂ hm, fun d' hd' => ?_, bytesKept_of_find fun a d hd => ?_⟩
  · obtain ⟨d, -, -, -, hmode⟩ := exists_of_forall₂ hm hd'
    exact hmode
  · obtain ⟨d', hd', hsteady, -⟩ := find_of_forall₂ hm hd
    exact ⟨d', hd', fun k _ hc => hsteady.bytes k hc⟩

/-! ## Holding the line -/

section
variable {s : State} {m : Memory}

theorem hold_low_lowUs (own us : Nat) (h : s.pin.drive = .low) : (hold own us s).env.lowUs = s.env.lowUs + us := by
  rw [hold, lowPulse_env_lowUs, delay_env, h, pass_low_lowUs]

/-- Holding the line low, long enough for a reset pulse. -/
theorem Via.afterPulse (us : Nat) (h : Via Steady m s.env) (hd : s.pin.drive = .low)
    (hlong : Config.resetPulseUs ≤ s.env.lowUs + us) : Via Renewed m (hold 0 us s).env := by
  have hlow : (delay us s).env.lowUs = s.env.lowUs + us := by rw [delay_env, hd, pass_low_lowUs]
  have hpulse : ((delay us s).pin.drive == .low && (delay us s).env.isPulse 0) = true := by
    have hpos : 0 < s.env.lowUs + us := lt_of_lt_of_le (by decide) hlong
    rw [delay_pin_drive, hd, Env.isPulse, hlow]
    simp [hpos, hlong]
  refine (h.afterDelay us steady_tick).map (f := onReset) ?_ (fun _ => rfl) fun d d' _ hz => hz.renewed
  rw [hold, lowPulse_env_remote, hpulse]
  rfl

theorem Via.afterSteadyHold (own us : Nat) (h : Via Steady m s.env) : Via Steady m (hold own us s).env :=
  h.afterHold own us steady_tick (.inr fun _ _ hz => hz.renewed.1)

end

/-! ## The poll of a low line -/

theorem afterLowPoll_low {s : State} (h : s.pin.drive = .low) :
    (afterLowPoll s).pin.drive = .low ∧ (afterLowPoll s).params = s.params ∧
      (afterLowPoll s).env.lowUs = s.env.lowUs + s.params.timing.tPoll :=
  ⟨h, rfl, hold_low_lowUs (s := emit (.sample .low) (takeAnswer s)) 0 _ h⟩

theorem via_afterLowPolls {m : Memory} (n : Nat) : ∀ s : State, Via Steady m s.env →
    Via Steady m (afterLowPolls n s).env := by
  induction n with
  | zero => exact fun s hs => hs
  | succ n ih =>
    exact fun s hs => ih (afterLowPoll s)
      (Via.afterSteadyHold (s := emit (.sample .low) (takeAnswer s)) 0 _ (hs.congr rfl))

/-- The low time over the poll of a low line, and the reset pulse that it makes. -/
theorem afterLowPolls_low {m : Memory} (n : Nat) : ∀ s : State, s.pin.drive = .low → Via Steady m s.env →
    (afterLowPolls n s).env.lowUs = s.env.lowUs + n * s.params.timing.tPoll ∧
      (0 < n → Config.resetPulseUs ≤ s.env.lowUs + n * s.params.timing.tPoll →
        Via Renewed m (afterLowPolls n s).env) := by
  induction n with
  | zero => exact fun s _ hs => ⟨by simp [afterLowPolls], fun h => absurd h (Nat.lt_irrefl 0)⟩
  | succ n ih =>
    intro s hd hs
    obtain ⟨hd', hparams, hlow⟩ := afterLowPoll_low hd
    obtain ⟨hlowUs, hrenewed⟩ := ih (afterLowPoll s) hd' (via_afterLowPolls 1 s hs)
    have hsum : s.env.lowUs + s.params.timing.tPoll + n * s.params.timing.tPoll =
        s.env.lowUs + (n + 1) * s.params.timing.tPoll := by
      rw [Nat.add_mul]
      omega
    rw [hparams, hlow, hsum] at hlowUs hrenewed
    refine ⟨hlowUs, fun _ hlong => ?_⟩
    cases n with
    | zero =>
      rw [Nat.zero_add, Nat.one_mul] at hlong
      exact Via.afterPulse (s := emit (.sample .low) (takeAnswer s)) _ (hs.congr rfl) hd hlong
    | succ n => exact hrenewed (Nat.succ_pos n) hlong

/-! ## A reset slot whose release faults -/

/-- The state in which a RESET from `s` holds the line low for its pulse. -/
theorem busReset_release_faulted {s : State} {p : Nat} {e : PinErr} (hi : LineIdle s p) (hu : s.env.Unfaulted (p + 2))
    (hf : s.env.faultAt (p + 2) = some e) : busReset s = .raised (.pin e)
      (takeAnswer (hold 0 s.params.timing.tRstl (setDrive .low (takeAnswer (afterPoll s p))))) := by
  obtain ⟨hn, hl, hh⟩ := hi
  obtain ⟨-, -, -, hparams, -⟩ := afterPoll_spec s p
  have h0 : (afterPoll s p).env.faultAt 0 = none := by
    rw [afterPoll_env_faultAt]
    exact hu _ (by omega)
  have h1 : (afterPoll s p).env.faultAt 1 = some e := by
    rw [afterPoll_env_faultAt]
    exact hf
  rw [busReset, pollIdle_idle p _ s hn hl hh (fun k hk => hu k (by omega)), andThen_ok, pinLow_unfaulted h0,
    andThen_ok, pinRelease_faulted (by simpa using h1), andThen_raised]
  rw [← hparams]
  rfl

/-! ## A write slot from a low line -/

theorem slotPulse_eq_true {s : State} {x : Slot} (h : ¬ NoPulse s (x.lowUs s.params.timing)) :
    slotPulse s x = true := by
  obtain ⟨hd, h0, hlong⟩ : s.pin.drive ≠ .released ∧ s.env.lowUs ≠ 0 ∧
      ¬ s.env.lowUs + x.lowUs s.params.timing < Config.resetPulseUs := by simpa only [NoPulse, not_or] using h
  have hlow : s.pin.drive = .low := by
    cases hdrive : s.pin.drive with
    | released => exact absurd hdrive hd
    | low => rfl
  have hown : x.lowUs s.params.timing < s.env.lowUs + x.lowUs s.params.timing := by omega
  have hpulse : Config.resetPulseUs ≤ s.env.lowUs + x.lowUs s.params.timing := Nat.le_of_not_lt hlong
  rw [slotPulse, slotLowUs, if_pos hlow, decide_eq_true hown, decide_eq_true hpulse, Bool.and_self]

end Sys2Proof.Machine

namespace Sys2Proof

open Machine

/-- Settles O24: the low time reaches a reset pulse in a delay (`Via.afterPulse`, `afterLowPolls_low`), at the end of a
slot (`slotPulse_eq_true`), or in a pause (`via_elapse`). -/
theorem stuckLineAndRecovery : Obligations.StuckLineAndRecovery := by
  refine ⟨fun s m p e hr hcrit hi hu hf hlong => ?_, fun s m hscript hr hd hcrit =>
    ⟨?_, fun b => ?_, fun ms rest hrst hbusy hinputs hlong => ?_⟩⟩
  · obtain ⟨hslot, -⟩ := resetSlot s p hcrit
    obtain ⟨-, -, -, hrelease, -⟩ := hslot hi
    obtain ⟨t, hfails⟩ := hrelease e hu hf
    have henv := env_of_operate (op := busReset) rfl hfails.1
    rw [busReset_release_faulted (s := accept s) hi hu hf, final_raised] at henv
    have hpolled : Via Steady m (setDrive .low (takeAnswer (afterPoll (accept s) p))).env :=
      (via_afterLowPolls p (accept s) (via_steady hr)).congr rfl
    obtain ⟨m', hr', hreset⟩ := (hpolled.afterPulse s.params.timing.tRstl rfl (Nat.le_add_left_of_le hlong)).allReset
    refine ⟨t, m', hfails, ?_, by rw [henv]; exact hr', hreset⟩
    have hlowUs := hold_low_lowUs (s := setDrive .low (takeAnswer (afterPoll (accept s) p))) 0 s.params.timing.tRstl rfl
    rw [henv]
    exact (Nat.le_add_left _ _).trans hlowUs.ge
  · have hlevel (k : Nat) : s.env.levelAt k s.pin.drive .poll = .low := by
      rw [levelAt_remote hscript hr, hd]
      rfl
    have hu (n : Nat) : s.env.Unfaulted n := fun k _ => reference_unfaulted hscript hr k
    obtain ⟨-, hstuck, -⟩ := resetSlot s 0 hcrit
    obtain ⟨t, hfails⟩ := hstuck (fun k _ => hlevel k) (hu _)
    have henv := env_of_operate (op := busReset) rfl hfails.1
    rw [busReset_low (s := accept s) (fun k _ => hlevel k) (hu _), final_raised] at henv
    obtain ⟨hlowUs, hrenewed⟩ := afterLowPolls_low s.params.timing.nPoll (accept s) hd (via_steady hr)
    have hlowUs' : t.env.lowUs = s.env.lowUs + s.params.timing.nPoll * s.params.timing.tPoll := by
      rw [henv]
      exact hlowUs
    obtain ⟨m', hr', -⟩ := via_afterLowPolls s.params.timing.nPoll (accept s) (via_steady hr)
    refine ⟨t, m', hd ▸ hfails, hlowUs', by rw [henv]; exact hr', fun hpos hlong => ?_⟩
    obtain ⟨m'', hr'', hreset⟩ := (hrenewed hpos (by rwa [hlowUs'] at hlong)).allReset
    obtain rfl := Option.some.inj (hr'.symm.trans hr'')
    exact hreset
  · have hu : s.env.Unfaulted 2 := fun k _ => reference_unfaulted hscript hr k
    obtain ⟨hwhole, -⟩ := writeBitSlot s b
    obtain ⟨t, hrun, hdelivered, hpin, -⟩ := hwhole hu
    have henv := env_of_operate (op := writeBit b) rfl hrun
    rw [writeBit_unfaulted (s := accept s) b hu, final_ok] at henv
    have hvia : Via (fun _ d' => ¬ NoPulse s (writeLow s.params.timing b) → d'.mode = .romCommand 0 0) m
        (afterSlot (accept s) (.write b)).env :=
      (via_steady (e := (accept s).env) hr).afterSlot steady_tick fun d d' _ _ hpulse => by
        rw [slotPulse_eq_true (s := accept s) (x := .write b) hpulse]
        rfl
    obtain ⟨m', hr', hm'⟩ := hvia
    refine ⟨t, m', hrun, hdelivered, by rw [hpin], by rw [henv, hr'], fun hpulse d' hd' => ?_⟩
    obtain ⟨d, -, -, hmode⟩ := exists_of_forall₂ hm' hd'
    exact hmode hpulse
  · have hstep : step s = .next (elapse ms (setInputs rest s)) := by simp [step, fetch, hrst, hbusy, hinputs]
    have hpulse : (s.pin.drive == .low && (s.env.pass s.pin.drive (1000 * ms)).isPulse 0) = true := by
      have hpos : 0 < s.env.lowUs + 1000 * ms := lt_of_lt_of_le (by decide) hlong
      rw [Env.isPulse, hd, pass_low_lowUs]
      simp [hpos, hlong]
    have hrenewed : Via Renewed m (elapse ms (setInputs rest s)).env := by
      refine (via_elapse (s := setInputs rest s) ms hr).mono fun d d' hd' => ?_
      rw [hd', afterPause, setInputs_pin, setInputs_env, if_pos hpulse]
      exact (steady_tickDevice _ _ d).renewed
    obtain ⟨m', hr', hreset⟩ := hrenewed.allReset
    exact ⟨_, m', hstep, rfl, hr', hreset⟩

end Sys2Proof
end

section
/-! A search pass on reference devices: the walk down the tree of their addresses (`41_rom_search.md` R122, R125,
`20_memory.md` R66). -/

namespace Sys2Proof.Machine

/-! ## The addresses that a walk goes down among -/

/-- The two probe bits that devices at these addresses make at position `k + 1`: the line is high when all send 1. -/
def sentBits (l : List Address) (k : Nat) : Bool × Bool := (l.all (·.getLsbD k), l.all (!·.getLsbD k))

/-- The addresses left after the first `k` positions of a pass from `c`. -/
def candidates (c : SearchState) (roms : List Address) : Nat → List Address
  | 0 => roms
  | k + 1 =>
    (candidates c roms k).filter fun a => a.getLsbD k == chosenDir c (sentBits (candidates c roms k)) k

/-- The probe bits of a pass from `c` among devices at these addresses. -/
def searchProbe (c : SearchState) (roms : List Address) (k : Nat) : Bool × Bool := sentBits (candidates c roms k) k

section
variable {c : SearchState} {roms : List Address}

theorem chosenDir_congr {probe probe' : Nat → Bool × Bool} {k : Nat} (h : probe k = probe' k) :
    chosenDir c probe k = chosenDir c probe' k := by rw [chosenDir, chosenDir, h]

theorem candidates_succ (k : Nat) : candidates c roms (k + 1) =
    (candidates c roms k).filter fun a => a.getLsbD k == chosenDir c (searchProbe c roms) k := by
  rw [candidates, chosenDir_congr (probe := sentBits _) (probe' := searchProbe c roms) (k := k) rfl]

/-- The addresses left are those that agree with the directions so far. -/
theorem mem_candidates {a : Address} (k : Nat) : a ∈ candidates c roms k ↔
    a ∈ roms ∧ ∀ i, i < k → a.getLsbD i = chosenDir c (searchProbe c roms) i := by
  induction k with
  | zero => simp [candidates]
  | succ k ih =>
    rw [candidates_succ, List.mem_filter, ih, beq_iff_eq]
    constructor
    · rintro ⟨⟨ha, hbefore⟩, hk⟩
      refine ⟨ha, fun i hi => ?_⟩
      rcases Nat.lt_succ_iff_lt_or_eq.mp hi with hlt | rfl
      · exact hbefore i hlt
      · exact hk
    · exact fun ⟨ha, hall⟩ => ⟨⟨ha, fun i hi => hall i (by omega)⟩, hall k (by omega)⟩

/-- The bit that all addresses agree on is the direction. -/
theorem chosenDir_of_agree {l : List Address} {k : Nat} {b : Bool} (hl : l ≠ []) (h : ∀ a ∈ l, a.getLsbD k = b) :
    sentBits l k = (b, !b) ∧ chosenDir c (sentBits l) k = b := by
  obtain ⟨x, hx⟩ := List.exists_mem_of_ne_nil l hl
  have hbits : sentBits l k = (b, !b) := by
    cases b with
    | true =>
      have h1 : (l.all fun a => a.getLsbD k) = true := List.all_eq_true.mpr h
      have h2 : (l.all fun a => !a.getLsbD k) = false := List.all_eq_false.mpr ⟨x, hx, by simp [h x hx]⟩
      rw [sentBits, h1, h2]
      rfl
    | false =>
      have h1 : (l.all fun a => a.getLsbD k) = false := List.all_eq_false.mpr ⟨x, hx, by simp [h x hx]⟩
      have h2 : (l.all fun a => !a.getLsbD k) = true := List.all_eq_true.mpr fun a ha => by simp [h a ha]
      rw [sentBits, h1, h2]
      rfl
  refine ⟨hbits, ?_⟩
  rw [chosenDir, hbits]
  cases b <;> rfl

/-- Addresses that differ make a branch point. -/
theorem sentBits_of_differ {l : List Address} {k : Nat} {x y : Address} (hx : x ∈ l) (hy : y ∈ l)
    (hx0 : x.getLsbD k = false) (hy1 : y.getLsbD k = true) : sentBits l k = (false, false) := by
  rw [sentBits, List.all_eq_false.mpr ⟨x, hx, by simp [hx0]⟩, List.all_eq_false.mpr ⟨y, hy, by simp [hy1]⟩]

/-- All addresses agree on the bit, or they make a branch point. -/
theorem agree_or_differ (l : List Address) (k : Nat) : (∃ b, ∀ a ∈ l, a.getLsbD k = b) ∨
    ∃ x ∈ l, ∃ y ∈ l, x.getLsbD k = false ∧ y.getLsbD k = true := by
  by_cases h0 : ∃ x ∈ l, x.getLsbD k = false
  · by_cases h1 : ∃ y ∈ l, y.getLsbD k = true
    · obtain ⟨x, hx, hx0⟩ := h0
      obtain ⟨y, hy, hy1⟩ := h1
      exact .inr ⟨x, hx, y, hy, hx0, hy1⟩
    · exact .inl ⟨false, fun a ha => by simpa using fun h => h1 ⟨a, ha, h⟩⟩
  · exact .inl ⟨true, fun a ha => by simpa using fun h => h0 ⟨a, ha, h⟩⟩

/-- Some address goes the way that is chosen. -/
theorem candidates_ne_nil (h : roms ≠ []) (k : Nat) : candidates c roms k ≠ [] := by
  induction k with
  | zero => exact h
  | succ k ih =>
    obtain ⟨z, hz, hdir⟩ : ∃ z ∈ candidates c roms k, z.getLsbD k = chosenDir c (searchProbe c roms) k := by
      rcases agree_or_differ (candidates c roms k) k with ⟨b, hb⟩ | ⟨x, hx, y, hy, hx0, hy1⟩
      · obtain ⟨z, hz⟩ := List.exists_mem_of_ne_nil _ ih
        exact ⟨z, hz, (hb z hz).trans (chosenDir_of_agree ih hb).2.symm⟩
      · cases hdir : chosenDir c (searchProbe c roms) k with
        | false => exact ⟨x, hx, hx0⟩
        | true => exact ⟨y, hy, hy1⟩
    rw [candidates_succ]
    exact List.ne_nil_of_mem (List.mem_filter.mpr ⟨hz, by simp [hdir]⟩)

/-- Some device responds at each position. -/
theorem searchProbe_ne (h : roms ≠ []) (k : Nat) : searchProbe c roms k ≠ (true, true) := by
  rcases agree_or_differ (candidates c roms k) k with ⟨b, hb⟩ | ⟨x, hx, y, hy, hx0, hy1⟩
  · rw [searchProbe, (chosenDir_of_agree (c := c) (candidates_ne_nil h k) hb).1]
    cases b <;> decide
  · rw [searchProbe, sentBits_of_differ hx hy hx0 hy1]
    decide

/-- The walk ends at one of the addresses. -/
theorem romNo_mem {c' : SearchState} (h : roms ≠ []) (hc : PassCursor c (searchProbe c roms) c') : c'.romNo ∈ roms := by
  obtain ⟨x, hx⟩ := List.exists_mem_of_ne_nil _ (candidates_ne_nil (c := c) h 64)
  obtain ⟨hmem, hbits⟩ := (mem_candidates 64).mp hx
  obtain ⟨hrom, -⟩ := hc
  have heq : c'.romNo = x := BitVec.eq_of_getLsbD_eq fun i hi => (hrom i hi).trans (hbits i hi).symm
  rwa [heq]

end

/-! ## Devices in a pass -/

/-- The devices at these addresses are in this mode, the others idle. -/
def Seeking (l : List Address) (μ : Mode) (d d' : Device) : Prop := d'.mode = if d.rom ∈ l then μ else .idle

theorem seeking_tick (l : List Address) (μ : Mode) : TickStable (Seeking l μ) :=
  fun n now _ d' _ h => (tickDevice_mode n now d').trans h

theorem seeking_read_probe {l : List Address} {k : Nat} {d d' : Device} (h : Seeking l (.searching k .probe) d d') :
    Seeking l (.searching k .complement) d (onRead d') := by
  unfold Seeking at h ⊢
  split at h <;> rename_i hmem <;> simp [onRead, h, hmem]

theorem seeking_read_complement {l : List Address} {k : Nat} {d d' : Device}
    (h : Seeking l (.searching k .complement) d d') : Seeking l (.searching k .direction) d (onRead d') := by
  unfold Seeking at h ⊢
  split at h <;> rename_i hmem <;> simp [onRead, h, hmem]

/-- The mode in which a device waits for position `k + 1` of a pass. -/
def positionMode (k : Nat) : Mode := if k < 64 then .searching k .probe else .idle

/-- The devices whose bit is the direction go on. -/
theorem seeking_write {l : List Address} {k : Nat} (hk : k < 64) (now : Nat) (b : Bool) {d d' : Device}
    (hrom : d'.rom = d.rom) (h : Seeking l (.searching k .direction) d d') :
    Seeking (l.filter fun a => a.getLsbD k == b) (positionMode (k + 1)) d (onWrite now b d') := by
  unfold Seeking at h ⊢
  rw [onWrite_mode, h, hrom]
  by_cases hmem : d.rom ∈ l
  · rw [if_pos hmem]
    by_cases hbit : b = d.rom.getLsbD k
    · rw [if_pos (List.mem_filter.mpr ⟨hmem, by simp [hbit]⟩), positionMode]
      by_cases h63 : k < 63
      · simp [modeWrite, onWrite, hbit, h63]
      · simp [modeWrite, onWrite, h63, show ¬ k + 1 < 64 by omega]
    · have hout : d.rom ∉ l.filter fun a => a.getLsbD k == b :=
        fun hf => hbit (beq_iff_eq.mp (List.mem_filter.mp hf).2).symm
      rw [if_neg hout]
      simp [modeWrite, onWrite, hbit]
  · rw [if_neg hmem, if_neg fun hf => hmem (List.mem_filter.mp hf).1, modeWrite_idle]

/-- The line at a probe: high when all the devices left send 1. -/
theorem all_sentBit {l : List Address} {m m' : Memory} {μ : Mode} {f : Address → Bool}
    (hl : ∀ a ∈ l, a ∈ m.map Device.rom) (hm : List.Forall₂ (fun d d' => d'.rom = d.rom ∧ Seeking l μ d d') m m')
    (hf : ∀ d' : Device, d'.mode = μ → sentBit d' = f d'.rom) : m'.all sentBit = l.all f := by
  rw [Bool.eq_iff_iff, List.all_eq_true, List.all_eq_true]
  constructor
  · intro hall a ha
    obtain ⟨d, hd, rfl⟩ := List.mem_map.mp (hl a ha)
    obtain ⟨d', hd', hrom, hmode⟩ := exists_of_forall₂ hm.flip hd
    rw [Seeking, if_pos ha] at hmode
    rw [← hrom, ← hf d' hmode]
    exact hall d' hd'
  · intro hall d' hd'
    obtain ⟨d, hd, hrom, hmode⟩ := exists_of_forall₂ hm hd'
    by_cases ha : d.rom ∈ l
    · rw [Seeking, if_pos ha] at hmode
      rw [hf d' hmode, hrom]
      exact hall _ ha
    · rw [Seeking, if_neg ha] at hmode
      rw [sentBit, hmode]

/-! ## The walk -/

theorem Via.mono_mem {Z Z' : Device → Device → Prop} {m : Memory} {e : Env} (h : Via Z m e)
    (hZ : ∀ d d', d ∈ m → Z d d' → Z' d d') : Via Z' m e := by
  obtain ⟨m', hr, hm⟩ := h
  refine ⟨m', hr, ?_⟩
  clear hr
  induction hm with
  | nil => exact .nil
  | cons hd _ ih =>
    obtain ⟨hrom, hz⟩ := hd
    exact .cons ⟨hrom, hZ _ _ List.mem_cons_self hz⟩ (ih fun d d' hmem => hZ d d' (List.mem_cons_of_mem _ hmem))

section
variable {m : Memory} {s : State}

/-- The devices after a read slot from a released line. -/
theorem via_afterRead {Z Z' : Device → Device → Prop} (h : Via Z m s.env) (hd : s.pin.drive = .released)
    (ht : TickStable Z) (hz : ∀ d d', Z d d' → Z' d (onRead d')) (b : Bool) : Via Z' m (afterSlot s (.read b)).env :=
  h.afterSlot ht fun d d' _ hd' => by
    rw [slotPulse_released _ hd]
    exact hz d d' hd'

/-- One position: what the two probes sample, and the devices after the triplet. -/
theorem triplet_seeking {l : List Address} {k : Nat} (hk : k < 64) (hl : ∀ a ∈ l, a ∈ m.map Device.rom)
    (hscript : s.env.script = []) (hd : s.pin.drive = .released)
    (hs : Via (Seeking l (.searching k .probe)) m s.env) :
    Probed s (sentBits l k).1 (sentBits l k).2 ∧ ∀ a b dir,
      Via (Seeking (l.filter fun x => x.getLsbD k == dir) (positionMode (k + 1))) m
        (afterSlots s [.read a, .read b, .write dir]).env := by
  have hcomplement (a : Bool) := via_afterRead hs hd (seeking_tick _ _) (fun _ _ => seeking_read_probe) a
  refine ⟨⟨?_, ?_⟩, fun a b dir => ?_⟩
  · obtain ⟨m', hm', hlevel⟩ := readLevel_eq_all hscript hs (seeking_tick _ _)
    rw [hlevel]
    exact all_sentBit hl hm' fun d' hmode => by rw [sentBit, hmode]
  · obtain ⟨m', hm', hlevel⟩ := readLevel_eq_all (s := afterSlot s _) (by rw [afterSlot_script, hscript, List.drop_nil])
      (hcomplement (sentBits l k).1) (seeking_tick _ _)
    rw [hlevel]
    exact all_sentBit hl hm' fun d' hmode => by rw [sentBit, hmode]
  · have hdirection := via_afterRead (hcomplement a) rfl (seeking_tick _ _) (fun _ _ => seeking_read_complement) b
    rw [afterSlots_cons, afterSlots_cons, afterSlots_cons, afterSlots_nil]
    refine hdirection.afterSlot (seeking_tick _ _) fun d d' hrom hz => ?_
    rw [slotPulse_released _ rfl]
    exact seeking_write hk _ dir hrom hz

/-- The devices left after `k` positions. -/
theorem via_triplets {c : SearchState} (hd : s.pin.drive = .released)
    (hs : Via (Seeking (m.map Device.rom) (.searching 0 .probe)) m s.env) (hscript : s.env.script = []) (k : Nat)
    (hk : k ≤ 64) : Via (Seeking (candidates c (m.map Device.rom) k) (positionMode k)) m
      (afterSlots s (tripletSlots c (searchProbe c (m.map Device.rom)) k)).env := by
  induction k with
  | zero => exact hs
  | succ k ih =>
    have hvia := ih (by omega)
    rw [positionMode, if_pos (by omega)] at hvia
    rw [tripletSlots_succ, afterSlots_append, candidates_succ]
    refine (triplet_seeking (by omega) (fun a ha => ((mem_candidates k).mp ha).1) ?_ ?_ hvia).2 _ _ _
    · rw [(afterSlots_consumed _ s).1, hscript, List.drop_nil]
    · rw [afterSlots_drive, hd]
      split <;> rfl

/-- The probe bits of a pass are those that the devices left make. -/
theorem probed_candidates {c : SearchState} (hd : s.pin.drive = .released)
    (hs : Via (Seeking (m.map Device.rom) (.searching 0 .probe)) m s.env) (hscript : s.env.script = []) {k : Nat}
    (hk : k < 64) : Probed (afterSlots s (tripletSlots c (searchProbe c (m.map Device.rom)) k))
      (searchProbe c (m.map Device.rom) k).1 (searchProbe c (m.map Device.rom) k).2 := by
  have hvia := via_triplets (c := c) hd hs hscript k (by omega)
  rw [positionMode, if_pos hk] at hvia
  refine (triplet_seeking hk (fun a ha => ((mem_candidates k).mp ha).1) ?_ ?_ hvia).1
  · rw [(afterSlots_consumed _ s).1, hscript, List.drop_nil]
  · rw [afterSlots_drive, hd]
    split <;> rfl

end

/-! ## SEARCH on reference devices -/

/-- The devices after a reset slot and the search command. -/
theorem open_searchCommand {s : State} {m : Memory} (h : Reference s m) (hm : m ≠ []) :
    Open (Seeking (m.map Device.rom) (.searching 0 .probe)) m (afterTransaction s 0 (w8 Config.cmdSearchRom)) := by
  obtain ⟨hidle, hpresent, -⟩ := reference_lineReady h hm 0
  have hu : (afterSlot (afterPoll s 0) (.reset true)).env.Unfaulted 16 := fun k hk => by
    rw [afterPoll_reset_faultAt]
    exact reference_faultFree h _ _ (Nat.lt_succ_self _)
  have hreset := leads_busReset still_readStable.tick still_readStable.reset (via_still (P := fun _ => True) h.remote)
  rw [busReset_idle hidle (reference_faultFree h _), hpresent, presentFlag_low, if_pos rfl] at hreset
  have htracked : Open (Tracked (fun _ => True) fun _ => .romCommand 0 0) m
      (afterSlot (afterPoll s 0) (.reset true)) := ⟨hreset.1, hreset.2.mono fun d d' hz hp => ⟨hz.1 hp, hz.2⟩⟩
  have hbits := leads_writeBits_quiet (bs := bitsOf Config.cmdSearchRom) htracked fun d _ => (romCommand_byte d.rom _).1
  rw [writeBits_unfaulted _ (by rwa [bitsOf_length])] at hbits
  obtain ⟨hd, hvia⟩ := hbits
  refine ⟨hd, hvia.mono_mem fun d d' hmem hz => ?_⟩
  obtain ⟨-, hmode⟩ := hz trivial
  rw [Seeking, if_pos (List.mem_map_of_mem hmem), hmode]
  exact (romCommand_byte d.rom _).2

/-- A SEARCH that is not the exhausted call, on reference devices. -/
theorem search_reference {s : State} {m : Memory} (h : Reference s m) (hm : m ≠ [])
    (hflag : s.search.lastDeviceFlag = false) :
    ∃ t m', exec .search s = .next t ∧ PassCursor s.search (searchProbe s.search (m.map Device.rom)) t.search ∧
      Delivered (passResponse s.params t.search) s t ∧ t.pin.crit = false ∧ t.pin.slots =
        .reset true :: passSlots s.search (searchProbe s.search (m.map Device.rom)) ∧ t.draws = s.draws ∧
      t.host = s.host ∧ t.params = s.params ∧ Reference t m' ∧ m'.map Device.rom = m.map Device.rom := by
  obtain ⟨hidle, hpresent, -⟩ := reference_lineReady (s := accept s) h hm 0
  have hreset := busReset_idle (s := accept s) hidle (reference_faultFree (s := accept s) h _)
  rw [hpresent, presentFlag_low, if_pos rfl] at hreset
  have hu : (afterSlot (afterPoll (accept s) 0) (.reset true)).env.Unfaulted 528 := fun k hk => by
    rw [afterPoll_reset_faultAt]
    exact reference_faultFree (s := accept s) h _ _ (Nat.lt_succ_self _)
  obtain ⟨hsearch, hport, hhost, hparams, hdraws, -⟩ := afterPoll_spec (accept s) 0
  have hsearch' : (afterSlot (afterPoll (accept s) 0) (.reset true)).search = s.search := hsearch
  obtain ⟨hdrive, hcommand⟩ := open_searchCommand (s := accept s) h hm
  have hscript := afterTransaction_script (s := accept s) h.script 0 (w8 Config.cmdSearchRom)
  have hroms : m.map Device.rom ≠ [] := by simpa using hm
  obtain ⟨c, hc, hx⟩ := searchPass_complete (probe := searchProbe s.search (m.map Device.rom)) hu
    (fun k _ => searchProbe_ne hroms k) fun k hk => by
      rw [hsearch']
      exact probed_candidates hdrive hcommand hscript hk
  rw [hsearch'] at hc hx
  have hop : search (accept s) = searchPass (afterSlot (afterPoll (accept s) 0) (.reset true)) := by
    rw [search, if_neg (by simp [hflag]), hreset, andThen_ok, hx.stays]
  have hpin := afterTransaction_pin
    (transfers_passSlots s.search (searchProbe s.search (m.map Device.rom))) (accept s) 0
  have hvia := via_triplets (c := s.search) hdrive hcommand hscript 64 (Nat.le_refl 64)
  obtain ⟨-, hport', hhost', hparams', hdraws', -⟩ :=
    afterSlots_spec (passSlots s.search (searchProbe s.search (m.map Device.rom)))
      (afterSlot (afterPoll (accept s) 0) (.reset true))
  obtain ⟨hcursor, hdelivered, htpin, htdraws, hthost, htparams⟩ := finish_pass (s := s) hx (hparams'.trans hparams)
    (hport'.trans hport) (congrArg Pin.crit hpin)
  have henv : (finish .ofSearch (searchPass (afterSlot (afterPoll (accept s) 0) (.reset true)))).env =
      (afterTransaction (accept s) 0 (passSlots s.search (searchProbe s.search (m.map Device.rom)))).env := by
    rw [finish_env, hx.final]
    rfl
  have hpin' := htpin.trans hpin
  have hparams'' := htparams.trans (hparams'.trans hparams)
  have hscript' := afterTransaction_script (s := accept s) h.script 0
    (passSlots s.search (searchProbe s.search (m.map Device.rom)))
  rw [← afterTransaction_append, ← passSlots] at hvia
  rw [← henv] at hvia hscript'
  obtain ⟨m', hm', hforall⟩ := reference_after (s := s) h hvia hscript' (by rw [hpin']) hparams''
  refine ⟨finish .ofSearch (search (accept s)), m', rfl, ?_⟩
  rw [hop]
  exact ⟨by rwa [hcursor], by rwa [hcursor], by rw [hpin'], by rw [hpin']; rfl, htdraws.trans (hdraws'.trans hdraws),
    hthost.trans (hhost'.trans hhost), hparams'', hm', roms_of_forall₂ hforall⟩

/-! ## Without a branch point -/

theorem lastZeroOf_eq_zero {c : SearchState} {probe : Nat → Bool × Bool} {n : Nat}
    (h : ∀ k, k < n → probe k ≠ (false, false)) : lastZeroOf c probe n = 0 := by
  induction n with
  | zero => rfl
  | succ n ih =>
    have hn : takesZero c probe n = false := by
      rw [takesZero, decide_eq_false (h n (Nat.lt_succ_self n)), Bool.false_and]
    rw [lastZeroOf_succ, hn, if_neg Bool.false_ne_true]
    exact ih fun k hk => h k (by omega)

/-- The cursor after a pass without a branch point. -/
theorem PassCursor.of_noBranch {c c' : SearchState} {probe : Nat → Bool × Bool} (hc : PassCursor c probe c')
    (h : ∀ k, k < 64 → probe k ≠ (false, false)) : c' = ⟨c'.romNo, 0, c.lastFamilyDiscrepancy, true⟩ := by
  obtain ⟨-, hlast, hfamily, hflag⟩ := hc
  rw [lastZeroOf_eq_zero h] at hlast hflag
  rw [lastZeroOf_eq_zero fun k hk => h k (by omega), if_pos rfl] at hfamily
  obtain ⟨romNo, last, family, flag⟩ := c'
  obtain rfl := BitVec.eq_of_toNat_eq (y := 0) hlast
  obtain rfl := BitVec.eq_of_toNat_eq hfamily
  obtain rfl : flag = true := hflag
  rfl

theorem passResponse_eq (p : Params) (c : SearchState) : passResponse p c =
    if p.searchCrcCheck && !crcOk (addressBytes c.romNo) then ⟨.crcMismatch, 0, 0, 0⟩
    else ⟨.ok, 1, 0, c.romNo.setWidth 72⟩ := rfl

theorem passSlots_length (c : SearchState) (probe : Nat → Bool × Bool) : (passSlots c probe).length = 200 := by
  rw [passSlots, List.length_append, (tripletSlots_bounds c probe 64).1]
  simp

end Sys2Proof.Machine

namespace Sys2Proof

open Machine

/-- Settles O33: one address makes no branch point. -/
theorem searchFindsTheOnlyDevice : Obligations.SearchFindsTheOnlyDevice := by
  intro s d h hflag
  obtain ⟨t, m', hrun, hc, hdelivered, hcrit, hslots, hdraws, hhost, hparams, hm', -⟩ :=
    search_reference h (List.cons_ne_nil d []) hflag
  have hrom : t.search.romNo = d.rom := List.mem_singleton.mp (romNo_mem (List.cons_ne_nil _ _) hc)
  have hprobe (k : Nat) (_ : k < 64) : searchProbe s.search [d.rom] k ≠ (false, false) := by
    have hone : ∀ a ∈ candidates s.search [d.rom] k, a.getLsbD k = d.rom.getLsbD k := fun a ha => by
      rw [List.mem_singleton.mp ((mem_candidates k).mp ha).1]
    rw [searchProbe, (chosenDir_of_agree (c := s.search) (candidates_ne_nil (List.cons_ne_nil _ _) k) hone).1]
    cases d.rom.getLsbD k <;> decide
  have hcursor := PassCursor.of_noBranch hc hprobe
  rw [hrom] at hcursor
  rw [passResponse_eq, hrom] at hdelivered
  refine ⟨t, hrun, hcursor, hdelivered, ?_, hm'.released, hcrit, hdraws, hhost, hparams⟩
  rw [hslots, List.length_cons, passSlots_length]

/-- Settles O34: some device left goes the way that is chosen, down to the last position (`romNo_mem`). -/
theorem foundAddressIsAttached : Obligations.FoundAddressIsAttached := by
  intro s m h hm hflag
  obtain ⟨t, m', hrun, hc, hdelivered, -⟩ := search_reference h hm hflag
  obtain ⟨d, hd, hrom⟩ := List.mem_map.mp (romNo_mem (by simpa using hm) hc)
  rw [passResponse_eq, ← hrom] at hdelivered
  exact ⟨t, d, hrun, hd, hrom.symm, hdelivered⟩

end Sys2Proof
end

section
/-! Enumeration: searches in a row find the addresses in transmission order (`41_rom_search.md` R129). -/

namespace Sys2Proof.Machine

/-! ## Transmission order -/

theorem TransmittedBefore.trans {a b y : Address} (h : TransmittedBefore a b) (g : TransmittedBefore b y) :
    TransmittedBefore a y := by
  obtain ⟨i, hi, ha, hb, hab⟩ := h
  obtain ⟨j, hj, hb', hy, hby⟩ := g
  rcases Nat.lt_trichotomy i j with hij | rfl | hij
  · exact ⟨i, hi, ha, (hby i hij).symm.trans hb, fun l hl => (hab l hl).trans (hby l (by omega))⟩
  · exact nomatch hb.symm.trans hb'
  · exact ⟨j, hj, (hab j hij).trans hb', hy, fun l hl => (hab l (by omega)).trans (hby l hl)⟩

theorem TransmittedBefore.ne {a b : Address} (h : TransmittedBefore a b) : b ≠ a := by
  rintro rfl
  obtain ⟨i, -, h0, h1, -⟩ := h
  exact nomatch h0.symm.trans h1

/-- Two addresses differ at some bit first. -/
theorem exists_firstDiff {a b : Address} (h : a ≠ b) :
    ∃ j, j < 64 ∧ a.getLsbD j ≠ b.getLsbD j ∧ ∀ i, i < j → a.getLsbD i = b.getLsbD i := by
  classical
  have hex : ∃ j, j < 64 ∧ a.getLsbD j ≠ b.getLsbD j := by
    by_contra hall
    exact h (BitVec.eq_of_getLsbD_eq fun i hi => by_contra fun hne => hall ⟨i, hi, hne⟩)
  obtain ⟨hj, hne⟩ := Nat.find_spec hex
  refine ⟨Nat.find hex, hj, hne, fun i hi => by_contra fun hne' => Nat.find_min hex hi ⟨?_, hne'⟩⟩
  omega

/-! ## The branch points of an address -/

/-- At position `k + 1` the address takes 0 and another of the addresses takes 1. -/
def BranchesAt (roms : List Address) (a : Address) (k : Nat) : Prop :=
  a.getLsbD k = false ∧ ∃ b ∈ roms, (∀ i, i < k → b.getLsbD i = a.getLsbD i) ∧ b.getLsbD k = true

/-- The cursor stands at one of the addresses, and at the last of its branch points. -/
structure Reached (roms : List Address) (c : SearchState) : Prop where
  last   : ∀ k, k < 64 → BranchesAt roms c.romNo k → k + 1 ≤ c.lastDiscrepancy.toNat
  branch : c.lastDiscrepancy.toNat ≠ 0 → ∃ k, k < 64 ∧ c.lastDiscrepancy.toNat = k + 1 ∧ BranchesAt roms c.romNo k
  mem    : c.romNo ∈ roms

theorem lastZeroOf_spec (c : SearchState) (probe : Nat → Bool × Bool) (n : Nat) :
    (∀ k, k < n → takesZero c probe k = true → k + 1 ≤ lastZeroOf c probe n) ∧
      (lastZeroOf c probe n ≠ 0 → ∃ k, k < n ∧ lastZeroOf c probe n = k + 1 ∧ takesZero c probe k = true) := by
  induction n with
  | zero => exact ⟨fun k hk => absurd hk (Nat.not_lt_zero k), fun h => absurd rfl h⟩
  | succ n ih =>
    obtain ⟨hlast, hbranch⟩ := ih
    rw [lastZeroOf_succ]
    by_cases hn : takesZero c probe n = true
    · rw [if_pos hn]
      exact ⟨fun k hk _ => by omega, fun _ => ⟨n, Nat.lt_succ_self n, rfl, hn⟩⟩
    · rw [if_neg hn]
      refine ⟨fun k hk hzero => ?_, fun h => ?_⟩
      · rcases Nat.lt_succ_iff_lt_or_eq.mp hk with hlt | rfl
        · exact hlast k hlt hzero
        · exact absurd hzero hn
      · obtain ⟨k, hk, hrest⟩ := hbranch h
        exact ⟨k, by omega, hrest⟩

section
variable {c c' : SearchState} {roms : List Address}

/-- A branch point is taken toward what `last_discrepancy` says. -/
theorem chosenDir_of_differ {k : Nat} {x y : Address} (hx : x ∈ candidates c roms k) (hy : y ∈ candidates c roms k)
    (hx0 : x.getLsbD k = false) (hy1 : y.getLsbD k = true) : chosenDir c (searchProbe c roms) k =
      if k + 1 < c.lastDiscrepancy.toNat then c.romNo.getLsbD k else k + 1 == c.lastDiscrepancy.toNat := by
  rw [chosenDir, searchProbe, sentBits_of_differ hx hy hx0 hy1]

section
variable (hroms : roms ≠ []) (hc : PassCursor c (searchProbe c roms) c')
include hroms hc

/-- The address found is left at each position. -/
theorem romNo_mem_candidates {k : Nat} (hk : k ≤ 64) : c'.romNo ∈ candidates c roms k :=
  (mem_candidates k).mpr ⟨romNo_mem hroms hc, fun i hi => hc.1 i (by omega)⟩

/-- The branch points taken toward 0 are those of the address found. -/
theorem takesZero_iff {k : Nat} (hk : k < 64) :
    takesZero c (searchProbe c roms) k = true ↔ BranchesAt roms c'.romNo k := by
  have hdir := hc.1 k hk
  have hmem := romNo_mem_candidates hroms hc (Nat.le_of_lt hk)
  rw [takesZero, Bool.and_eq_true, decide_eq_true_iff, Bool.not_eq_true', ← hdir]
  constructor
  · rintro ⟨hprobe, hzero⟩
    refine ⟨hzero, ?_⟩
    have hnot : (candidates c roms k).all (fun a => !a.getLsbD k) = false := congrArg Prod.snd hprobe
    obtain ⟨b, hb, hbit⟩ := List.all_eq_false.mp hnot
    obtain ⟨hbmem, hbits⟩ := (mem_candidates k).mp hb
    exact ⟨b, hbmem, fun i hi => (hbits i hi).trans (hc.1 i (by omega)).symm, by simpa using hbit⟩
  · rintro ⟨hzero, b, hb, hbits, hbit⟩
    have hb' : b ∈ candidates c roms k :=
      (mem_candidates k).mpr ⟨hb, fun i hi => (hbits i hi).trans (hc.1 i (by omega))⟩
    exact ⟨sentBits_of_differ hmem hb' hzero hbit, hzero⟩

theorem reached_of_pass : Reached roms c' := by
  obtain ⟨hlast, hbranch⟩ := lastZeroOf_spec c (searchProbe c roms) 64
  have ⟨_, hD, _⟩ := hc
  refine ⟨fun k hk h => ?_, fun h => ?_, romNo_mem hroms hc⟩
  · rw [hD]
    exact hlast k hk ((takesZero_iff hroms hc hk).mpr h)
  · rw [hD] at h ⊢
    obtain ⟨k, hk, hk1, hzero⟩ := hbranch h
    exact ⟨k, hk, hk1, (takesZero_iff hroms hc hk).mp hzero⟩

/-- Past `last_discrepancy` the least of the addresses left is found. -/
theorem found_least {x : Address} (hx : x ∈ candidates c roms c.lastDiscrepancy.toNat) :
    x = c'.romNo ∨ TransmittedBefore c'.romNo x := by
  by_cases hne : c'.romNo = x
  · exact .inl hne.symm
  obtain ⟨j, hj, hdiff, hsame⟩ := exists_firstDiff hne
  obtain ⟨hxmem, hxbits⟩ := (mem_candidates _).mp hx
  have hle : c.lastDiscrepancy.toNat ≤ j := by
    by_contra hlt
    exact hdiff ((hc.1 j hj).trans (hxbits j (by omega)).symm)
  have hfound := romNo_mem_candidates hroms hc (Nat.le_of_lt hj)
  have hx' : x ∈ candidates c roms j :=
    (mem_candidates j).mpr ⟨hxmem, fun i hi => (hsame i hi).symm.trans (hc.1 i (by omega))⟩
  have hzero : c'.romNo.getLsbD j = false := by
    cases hb : c'.romNo.getLsbD j with
    | false => rfl
    | true =>
      have hx0 : x.getLsbD j = false := by simpa [hb] using hdiff
      have hdir := hc.1 j hj
      rw [hb, chosenDir_of_differ hx' hfound hx0 hb, if_neg (by omega), eq_comm, beq_iff_eq] at hdir
      omega
  exact .inr ⟨j, hj, hzero, by simpa [hzero] using hdiff, hsame⟩

/-- An address is still to be found from the cursor: all are at the start, later those after the last one found. -/
def Due (c : SearchState) (a : Address) : Prop := c.lastDiscrepancy.toNat = 0 ∨ TransmittedBefore c.romNo a

omit hc in
/-- Up to the last branch point the walk repeats, and there it goes the other way. -/
theorem chosenDir_of_reached (h : Reached roms c) {k : Nat} (hD : c.lastDiscrepancy.toNat = k + 1)
    (hk : BranchesAt roms c.romNo k) : (∀ i, i < k → chosenDir c (searchProbe c roms) i = c.romNo.getLsbD i) ∧
      chosenDir c (searchProbe c roms) k = true := by
  have hdirs : ∀ j, j ≤ k → ∀ i, i < j → chosenDir c (searchProbe c roms) i = c.romNo.getLsbD i := by
    intro j
    induction j with
    | zero => exact fun _ i hi => absurd hi (Nat.not_lt_zero i)
    | succ j ih =>
      intro hj i hi
      rcases Nat.lt_succ_iff_lt_or_eq.mp hi with hlt | rfl
      · exact ih (by omega) i hlt
      have hmem : c.romNo ∈ candidates c roms i :=
        (mem_candidates i).mpr ⟨h.mem, fun l hl => (ih (by omega) l hl).symm⟩
      rcases agree_or_differ (candidates c roms i) i with ⟨b, hb⟩ | ⟨x, hx, y, hy, hx0, hy1⟩
      · exact (chosenDir_of_agree (candidates_ne_nil hroms i) hb).2.trans (hb _ hmem).symm
      · rw [chosenDir_of_differ hx hy hx0 hy1, if_pos (by omega)]
  refine ⟨hdirs k (Nat.le_refl k), ?_⟩
  obtain ⟨hzero, b, hb, hbits, hbit⟩ := hk
  have hmem : c.romNo ∈ candidates c roms k :=
    (mem_candidates k).mpr ⟨h.mem, fun i hi => (hdirs k (Nat.le_refl k) i hi).symm⟩
  have hb' : b ∈ candidates c roms k :=
    (mem_candidates k).mpr ⟨hb, fun i hi => (hbits i hi).trans (hdirs k (Nat.le_refl k) i hi).symm⟩
  rw [chosenDir_of_differ hmem hb' hzero hbit, hD, if_neg (Nat.lt_irrefl _), beq_self_eq_true]

/-- A pass finds the first of the addresses that are due. -/
theorem pass_finds_first (hcursor : c.lastDiscrepancy.toNat = 0 ∨ Reached roms c) :
    Due c c'.romNo ∧ ∀ y ∈ roms, Due c y → y = c'.romNo ∨ TransmittedBefore c'.romNo y := by
  by_cases hD : c.lastDiscrepancy.toNat = 0
  · refine ⟨.inl hD, fun y hy _ => found_least hroms hc ?_⟩
    rw [hD]
    exact hy
  have hreached := hcursor.resolve_left hD
  obtain ⟨k, hk, hDk, hbranch⟩ := hreached.branch hD
  obtain ⟨hrepeat, hother⟩ := chosenDir_of_reached hroms hreached hDk hbranch
  have hbits (i : Nat) (hi : i < k) : c'.romNo.getLsbD i = c.romNo.getLsbD i := (hc.1 i (by omega)).trans (hrepeat i hi)
  refine ⟨.inr ⟨k, hk, hbranch.1, (hc.1 k hk).trans hother, fun i hi => (hbits i hi).symm⟩, fun y hy hdue => ?_⟩
  obtain ⟨j, hj, ha, hyj, hsame⟩ := hdue.resolve_left hD
  have hle : j + 1 ≤ k + 1 := by
    rw [← hDk]
    exact hreached.last j hj ⟨ha, y, hy, fun i hi => (hsame i hi).symm, hyj⟩
  rcases Nat.lt_or_eq_of_le (Nat.le_of_succ_le_succ hle) with hlt | rfl
  · exact .inr ⟨j, hj, (hbits j hlt).trans ha, hyj, fun i hi => (hbits i (by omega)).trans (hsame i hi)⟩
  · refine found_least hroms hc ?_
    rw [hDk]
    refine (mem_candidates _).mpr ⟨hy, fun i hi => ?_⟩
    rcases Nat.lt_succ_iff_lt_or_eq.mp hi with hlt | rfl
    · exact (hsame i hlt).symm.trans (hrepeat i hlt).symm
    · exact hyj.trans hother.symm

end

end

/-! ## Searches in a row -/

/-- `U` are the addresses still to be found from this state, among those of the reference devices. -/
structure Pending (roms U : List Address) (s : State) : Prop where
  env    : ∃ m, Reference s m ∧ m.map Device.rom = roms
  flag   : s.search.lastDeviceFlag = false
  cursor : s.search.lastDiscrepancy.toNat = 0 ∨ Reached roms s.search
  nodup  : U.Nodup
  due    : ∀ y, y ∈ U ↔ y ∈ roms ∧ Due s.search y
  crc    : s.params.searchCrcCheck = true → ∀ a ∈ roms, crcOk (addressBytes a) = true

/-- One search finds the first of the addresses that are due, and leaves the others due. -/
theorem Pending.search {roms U : List Address} {s : State} (h : Pending roms U s) (hU : U ≠ []) :
    ∃ t b, exec .search s = .next t ∧ t.port.resp = ⟨.ok, 1, 0, b.setWidth 72⟩ ∧ b ∈ U ∧
      (∀ y ∈ U.erase b, TransmittedBefore b y) ∧ (U.erase b = [] → t.search.lastDeviceFlag = true) ∧
      (U.erase b ≠ [] → Pending roms (U.erase b) t) := by
  obtain ⟨⟨m, hm, rfl⟩, hflag, hcursor, hnodup, hdue, hcrc⟩ := h
  obtain ⟨z, hz⟩ := List.exists_mem_of_ne_nil U hU
  have hroms : m.map Device.rom ≠ [] := List.ne_nil_of_mem ((hdue z).mp hz).1
  obtain ⟨t, m', hrun, hc, hdelivered, -, -, -, -, hparams, hm', hmap⟩ :=
    search_reference hm (by simpa using hroms) hflag
  have hmem := romNo_mem hroms hc
  obtain ⟨hfound, hfirst⟩ := pass_finds_first hroms hc hcursor
  have hreached := reached_of_pass hroms hc
  have hb : t.search.romNo ∈ U := (hdue _).mpr ⟨hmem, hfound⟩
  have hrest (y : Address) :
      y ∈ U.erase t.search.romNo ↔ y ∈ m.map Device.rom ∧ TransmittedBefore t.search.romNo y := by
    rw [hnodup.mem_erase_iff, hdue]
    constructor
    · exact fun ⟨hne, hy, hyd⟩ => ⟨hy, (hfirst y hy hyd).resolve_left hne⟩
    · exact fun ⟨hy, hafter⟩ => ⟨hafter.ne, hy, hfound.imp id fun hbefore => hbefore.trans hafter⟩
  obtain ⟨-, hlast, -, hflag'⟩ := hc
  rw [← hlast, hflag, Bool.or_false] at hflag'
  refine ⟨t, t.search.romNo, hrun, ?_, hb, fun y hy => ((hrest y).mp hy).2, fun hnil => ?_, fun hne => ?_⟩
  · rw [hdelivered, passResponse_eq, if_neg]
    intro hbad
    obtain ⟨hcheck, hnot⟩ := (Bool.and_eq_true _ _).mp hbad
    rw [hcrc hcheck _ hmem] at hnot
    exact nomatch hnot
  · rw [hflag', beq_iff_eq]
    by_contra hD
    obtain ⟨k, hk, -, hzero, y, hy, hbits, hbit⟩ := hreached.branch hD
    have hin := (hrest y).mpr ⟨hy, k, hk, hzero, hbit, fun i hi => (hbits i hi).symm⟩
    rw [hnil] at hin
    exact nomatch hin
  · obtain ⟨y, hy⟩ := List.exists_mem_of_ne_nil _ hne
    obtain ⟨hymem, k, hk, hzero, hbit, hbits⟩ := (hrest y).mp hy
    have hD : t.search.lastDiscrepancy.toNat ≠ 0 := by
      have := hreached.last k hk ⟨hzero, y, hymem, fun i hi => (hbits i hi).symm, hbit⟩
      omega
    refine ⟨⟨m', hm', hmap⟩, ?_, .inr hreached, hnodup.erase _, fun y => ?_, by rwa [hparams]⟩
    · rw [hflag', beq_eq_false_iff_ne]
      exact hD
    · rw [hrest y, Due, or_iff_right hD]

theorem searchRun_succ {s t : State} (h : exec .search s = .next t) (n : Nat) :
    searchRun (n + 1) s = (t.port.resp :: (searchRun n t).1, (searchRun n t).2) := by rw [searchRun, h]

/-- The call after the last address. -/
theorem searchRun_exhausted {s : State} (h : s.search.lastDeviceFlag = true) :
    (searchRun 1 s).1 = [⟨.ok, 0, 0, 0⟩] ∧ (searchRun 1 s).2.search = ⟨0, 0, 0, false⟩ := by
  obtain ⟨t, ⟨hrun, hdelivered, -⟩, hsearch, -⟩ := searchExhausted s h
  rw [searchRun_succ hrun, hdelivered]
  exact ⟨rfl, hsearch⟩

/-- As many searches as addresses are due find them in order, and one more reports the end. -/
theorem searchRun_pending (n : Nat) : ∀ {roms U : List Address} {s : State}, Pending roms U s → U.length = n + 1 →
    ∃ found : List Address, found.Perm U ∧ found.Pairwise TransmittedBefore ∧
      (searchRun (n + 1) s).1 = found.map (fun a => ⟨.ok, 1, 0, a.setWidth 72⟩) ∧
      (searchRun (n + 1) s).2.search.lastDeviceFlag = true ∧
      (searchRun (n + 2) s).1 = found.map (fun a => ⟨.ok, 1, 0, a.setWidth 72⟩) ++ [⟨.ok, 0, 0, 0⟩] ∧
      (searchRun (n + 2) s).2.search = ⟨0, 0, 0, false⟩ := by
  induction n with
  | zero =>
    intro roms U s h hlen
    obtain ⟨t, b, hrun, hresp, hb, hafter, hlast, -⟩ := h.search (List.ne_nil_of_length_pos (by omega))
    have hnil : U.erase b = [] := List.length_eq_zero_iff.mp (by rw [List.length_erase_of_mem hb, hlen])
    obtain ⟨hend, hcursor⟩ := searchRun_exhausted (hlast hnil)
    refine ⟨[b], ?_, List.pairwise_singleton _ _, ?_, ?_, ?_, ?_⟩
    · rw [← hnil]
      exact (List.perm_cons_erase hb).symm
    · rw [searchRun_succ hrun, hresp]
      rfl
    · rw [searchRun_succ hrun]
      exact hlast hnil
    · rw [searchRun_succ hrun, hresp, hend]
      rfl
    · rw [searchRun_succ hrun]
      exact hcursor
  | succ n ih =>
    intro roms U s h hlen
    obtain ⟨t, b, hrun, hresp, hb, hafter, -, hpending⟩ := h.search (List.ne_nil_of_length_pos (by omega))
    have hlen' : (U.erase b).length = n + 1 := by rw [List.length_erase_of_mem hb, hlen, Nat.add_sub_cancel]
    obtain ⟨found, hperm, hpairwise, hfirst, hflag, hall, hcursor⟩ :=
      ih (hpending (List.ne_nil_of_length_pos (by omega))) hlen'
    refine ⟨b :: found, ?_, ?_, ?_, ?_, ?_, ?_⟩
    · exact (hperm.cons b).trans (List.perm_cons_erase hb).symm
    · exact List.pairwise_cons.mpr ⟨fun y hy => hafter y (hperm.mem_iff.mp hy), hpairwise⟩
    · rw [searchRun_succ hrun, hresp, hfirst]
      rfl
    · rw [searchRun_succ hrun]
      exact hflag
    · rw [searchRun_succ hrun, hresp, hall]
      rfl
    · rw [searchRun_succ hrun]
      exact hcursor

end Sys2Proof.Machine

namespace Sys2Proof

open Machine

/-- Settles O35: at the start all addresses are due, and each search takes the first of those that are
(`searchRun_pending`). -/
theorem searchEnumeratesAllDevices : Obligations.SearchEnumeratesAllDevices := by
  intro s m h hm hsearch hcrc
  have hD : s.search.lastDiscrepancy.toNat = 0 := by rw [hsearch]; rfl
  have hnodup : (m.map Device.rom).Nodup :=
    List.pairwise_map.mpr (h.wf.imp fun hlt heq => by rw [heq] at hlt; exact lt_irrefl _ hlt)
  have hpending : Pending (m.map Device.rom) (m.map Device.rom) s := by
    refine ⟨⟨m, h, rfl⟩, by rw [hsearch], .inl hD, hnodup, fun y => ⟨fun hy => ⟨hy, .inl hD⟩, And.left⟩,
      fun hcheck a ha => ?_⟩
    obtain ⟨d, hd, rfl⟩ := List.mem_map.mp ha
    exact hcrc hcheck d hd
  obtain ⟨d, m, rfl⟩ := List.exists_cons_of_ne_nil hm
  exact searchRun_pending m.length hpending (by simp)

end Sys2Proof
end
